-- ==== Sys2Proof/Word.lean ====
section
/-! DEFINITION. The word type of the Precilaser frame parser (PFP): the byte (00_scope.md rule R9).
Everything PFP moves is a sequence of bytes; a byte sequence is a `List Byte`, its first byte at index 0. -/

namespace Sys2Proof

/-- A byte: an unsigned integer 0..255 (R9), bit 0 the least significant. -/
abbrev Byte := BitVec 8

/-- The RX event word `kind[1:0] ++ data[7:0]` of 10_state.md rule R41. -/
abbrev RxWord := BitVec 10

end Sys2Proof
end

