-- ==== Sys2Proof/Config.lean ====
section
/-! DEFINITION. What an instance of PFP is configured by (00_scope.md rule R6, 10_state.md rule R31): the types of the
configuration record `CFG` and its layouts, and the constants without a body that stand for what the spec leaves open.
The default layouts and the reset configuration are in Machine/Layout.lean. -/

namespace Sys2Proof

/-- `CFG.ENDIAN` (R6, R31 no. 3: 0 = big, 1 = little). -/
inductive Endian where
  | big
  | little
  deriving DecidableEq, Repr, Inhabited

/-- `CFG.OVERRUN_SCOPE` (R6, R31 no. 4: 0 = all, 1 = hunt_only). -/
inductive OverrunScope where
  | all
  | huntOnly
  deriving DecidableEq, Repr, Inhabited

/-- One entry of a Param-Length Table port: a valid bit and a 7-bit length (R31). -/
structure LenEntry where
  valid : Bool
  len : Nat
  deriving DecidableEq, Repr, Inhabited

/-- A Param-Length Table, 256 entries keyed by the identifier byte (R31). Only the entries that differ from the
reset entry (invalid, length 0) are listed, keys strictly rising, so that equal tables are equal lists. -/
abbrev LenTable := List (Nat × LenEntry)

/-- One row of a status layout (44_status_amp.md rule R201, 45_status_seed.md rule R231): `count` elements of `width`
bytes from payload offset `offset` on, element `i` at `offset + width * i` (R88); `scale` is the `k` of the decimal
scale `10^-k` (R11), 0 where the rule gives none. -/
structure FieldSpec where
  offset : Nat
  width : Nat
  count : Nat
  scale : Nat
  deriving DecidableEq, Repr, Inhabited

/-- The bit positions of a photodiode status byte (R209); parameters, decision D22. -/
structure PdBits where
  samplingEnable : Nat
  hardwareProtection : Nat
  upperLimitEnabled : Nat
  lowerLimitEnabled : Nat
  hardwareProtectionEvent : Nat
  upperLimitEvent : Nat
  lowerLimitEvent : Nat
  deriving DecidableEq, Repr, Inhabited

/-- `CFG.AMP_LAYOUT` (R6, R201): offsets, widths, counts, scales and bit positions of the amplifier status payload. -/
structure AmpLayout where
  stable : FieldSpec
  systemStatus : FieldSpec
  driverUnlock : FieldSpec
  driverCurrent : FieldSpec
  pdValue : FieldSpec
  pdStatus : FieldSpec
  temperatures : FieldSpec
  pdProtectionBits : List Nat
  temperatureProtectionBits : List Nat
  enableControlBits : List Nat
  enableFlagBits : List Nat
  interlockBit : Nat
  pdBits : PdBits
  deriving DecidableEq, Repr, Inhabited

/-- Where the seed field `emission` stands: the open parameters `EM_OFF`, `EM_MASK` (R241). -/
structure EmissionSpec where
  offset : Nat
  mask : Byte
  deriving DecidableEq, Repr, Inhabited

/-- `CFG.SEED_LAYOUT` (R6, R231) with the open parameters of R238, R241, R244. -/
structure SeedLayout where
  temperatureSet : FieldSpec
  temperatureAct : FieldSpec
  temperatureDiode : FieldSpec
  currentSet : FieldSpec
  currentAct : FieldSpec
  piezoVoltage : FieldSpec
  wavelength : FieldSpec
  power : FieldSpec
  emission : EmissionSpec
  runHours : FieldSpec
  runMinutes : FieldSpec
  grating : List FieldSpec
  deriving DecidableEq, Repr, Inhabited

/-- `SEED_STATUS_ID = 0xB7`, fixed (R6). -/
abbrev seedStatusId : Byte := 0xB7#8

/-- `MAXPAY = 64` (R6): the largest length a Param-Length Table may hold. -/
abbrev maxPay : Nat := 64

/-- The length of an amplifier status payload (R200). -/
abbrev ampPayLen : Nat := 64

/-- The length of a seed status payload (R230). -/
abbrev seedPayLen : Nat := 40

/-- The bytes all elements of a field cover (R88: the stride is the width). -/
def FieldSpec.size (f : FieldSpec) : Nat := f.width * f.count

/-- The field lies inside a payload of `n` bytes: every `MemRead` of it is defined (R10, R64). -/
def FieldSpec.fits (n : Nat) (f : FieldSpec) : Bool := decide (f.offset + f.width * f.count ≤ n)

/-- A field with one element inside a payload of `n` bytes. -/
def FieldSpec.fitsOne (n : Nat) (f : FieldSpec) : Bool := FieldSpec.fits n f && f.count == 1

/-- `n` bit positions, each inside a container of `width` bytes. -/
def bitsFit (n width : Nat) (l : List Nat) : Bool := l.length == n && l.all (· < 8 * width)

/-- The seven positions of a photodiode status byte. -/
def pdBitList (b : PdBits) : List Nat :=
  [b.samplingEnable, b.hardwareProtection, b.upperLimitEnabled, b.lowerLimitEnabled, b.hardwareProtectionEvent,
   b.upperLimitEvent, b.lowerLimitEvent]

/-- An amplifier layout PFP can be built with: every field inside the 64-byte payload (R200, R64), the counts of PREC
§3 (R201), every flag inside its container. -/
def AmpLayout.fits (l : AmpLayout) : Bool :=
  [l.stable, l.systemStatus, l.driverUnlock].all (FieldSpec.fitsOne ampPayLen)
    && [l.driverCurrent, l.pdValue, l.pdStatus, l.temperatures].all (FieldSpec.fits ampPayLen)
    && bitsFit 4 l.systemStatus.width l.pdProtectionBits
    && bitsFit 5 l.systemStatus.width l.temperatureProtectionBits
    && bitsFit 3 l.driverUnlock.width l.enableControlBits
    && bitsFit 3 l.driverUnlock.width l.enableFlagBits
    && bitsFit 1 l.driverUnlock.width [l.interlockBit]
    && bitsFit 7 l.pdStatus.width (pdBitList l.pdBits)

/-- The payload `S` of the one seed frame the source gives (R231, 95_test_vectors.md V1). -/
def seedExample : List Byte :=
  [0x61, 0xA8, 0x61, 0xA8, 0x01, 0xF4, 0x00, 0x00, 0x00, 0x00, 0x00, 0x00, 0x00, 0x00, 0x00, 0x61, 0xC9, 0x00, 0x61, 0xFF]
    ++ [0x00, 0x00, 0x00, 0x00, 0x16, 0x00, 0x00, 0x03, 0x52, 0x0B, 0x00, 0xA5, 0xD2, 0x79, 0x00, 0x00, 0x00, 0x01, 0x00, 0x00]

/-- What R238 demands of `PZ_OFF`, `PZ_W`, `PZ_K`: width 1..4, scale 0..4, inside the payload, and reading raw 0 on
`S`, so that every byte it covers is a zero byte of `S`. -/
def piezoAdmissible (f : FieldSpec) : Bool :=
  decide (1 ≤ f.width) && decide (f.width ≤ 4) && f.count == 1 && decide (f.scale ≤ 4)
    && decide (f.offset + f.width ≤ seedPayLen)
    && ((seedExample.drop f.offset).take f.width).all (· == 0)

/-- What R241 demands of `EM_OFF`, `EM_MASK`: inside the payload, mask 1..255, reading false on `S`. -/
def emissionAdmissible (e : EmissionSpec) : Bool :=
  decide (e.offset < seedPayLen) && e.mask != 0 && (seedExample.getD e.offset 0 &&& e.mask) == 0

/-- A seed layout PFP can be built with: every field inside the 40-byte payload (R230, R64), the open fields as R238 and
R241 admit them. -/
def SeedLayout.fits (l : SeedLayout) : Bool :=
  [l.temperatureSet, l.temperatureAct, l.temperatureDiode, l.currentSet, l.currentAct, l.piezoVoltage, l.wavelength,
   l.power, l.runHours, l.runMinutes].all (FieldSpec.fitsOne seedPayLen)
    && decide (l.emission.offset < seedPayLen)
    && l.grating.all (FieldSpec.fitsOne seedPayLen)
    && piezoAdmissible l.piezoVoltage && emissionAdmissible l.emission

/-- An amplifier layout with the proof that it fits. -/
abbrev BuiltAmpLayout := Subtype fun l : AmpLayout => AmpLayout.fits l = true

/-- A seed layout with the proof that it fits. -/
abbrev BuiltSeedLayout := Subtype fun l : SeedLayout => SeedLayout.fits l = true

/-- The configuration record `CFG` (R6) with `AMP_STATUS_ID`, as the registers of R31 hold it. `addrWritten` and
`ampIdWritten` say that the host has written `CFG.ADDR` / `AMP_STATUS_ID` since reset: until then these two hold no
value and the engine operations are refused (70_reset_and_hazards.md rule R302). `amp` and `seed` are
build-time constants of the instance, each with the proof that PFP can be built with it: no step changes them. -/
structure Cfg where
  header : Byte
  addr : Byte
  addrWritten : Bool
  term0 : Byte
  term1 : Byte
  endian : Endian
  overrunScope : OverrunScope
  ampStatusId : Byte
  ampIdWritten : Bool
  retLen : LenTable
  cmdLen : LenTable
  amp : BuiltAmpLayout
  seed : BuiltSeedLayout
  deriving DecidableEq, Repr

/-- `CFG.AMP_LAYOUT`. -/
abbrev Cfg.ampLayout (c : Cfg) : AmpLayout := c.amp.val

/-- `CFG.SEED_LAYOUT`. -/
abbrev Cfg.seedLayout (c : Cfg) : SeedLayout := c.seed.val

/-- The record `ERRINFO` (10_state.md rule R26, 60_exceptions.md rule R260): one place for every byte some error
records. `raw0`, `raw1`, `raw2`, `command`, `length` are `raw[0..4]`; `term0`, `term1` the two terminator bytes found;
`lengthFound` the payload length a `WrongLength` found. -/
structure ErrInfo where
  raw0 : Byte
  raw1 : Byte
  raw2 : Byte
  command : Byte
  length : Byte
  term0 : Byte
  term1 : Byte
  chkFound : Byte
  chkCalc : Byte
  xorFound : Byte
  xorCalc : Byte
  lengthFound : Nat
  deriving DecidableEq, Repr, Inhabited

/-! Constants without a body: nothing in Lean can evaluate them or prove a value of them. -/

/-- The open parameter `PZ_OFF` of R238, before it is narrowed to the admissible ones (log entry 5). -/
opaque Config.pzOff : Nat
/-- The open parameter `PZ_W` of R238 (log entry 5). -/
opaque Config.pzW : Nat
/-- The open parameter `PZ_K` of R238 (log entry 5). -/
opaque Config.pzK : Nat
/-- The open parameter `EM_OFF` of R241 (log entry 5). -/
opaque Config.emOff : Nat
/-- The open parameter `EM_MASK` of R241 (log entry 5). -/
opaque Config.emMask : Byte

/-- A free byte: what the spec calls `any value` (93_implementation_defined.md U7), applied to the counter
`State.fresh` (log entry 3). -/
opaque Config.freeByte : Nat → Byte

/-- A free `ERRINFO`: the parts of it that the running error does not record are `any value`
(93_implementation_defined.md U6), applied to the counter `State.fresh` (log entry 3). -/
opaque Config.freeErrInfo : Nat → ErrInfo

end Sys2Proof
end

