-- ==== Sys2Proof/Syntax.lean ====
section
/-! DEFINITION. The operations of PFP as abstract syntax: one constructor of `Instr` for each row of
spec/opcode_table.json (00_scope.md rule R7, 30_encoding.md rule R95). A frame is the word PFP decodes, an RX event one
step of the receive engine, an `OP` row an operation the host starts, a `FIELD` row the evaluation of one field pattern
on its container bytes, a `DISPATCH` row the internal step that follows every decoded frame. -/

namespace Sys2Proof

/-- Message class (R12): which Param-Length Table applies. -/
inductive MsgClass where
  | command
  | ret
  deriving DecidableEq, Repr, Inhabited

/-- The payload operand of ENCODE and SEND (41_codec.md rule R120): an integer, a byte sequence, or absent. A negative
integer can be written down and is refused (R122). -/
inductive Payload where
  | absent
  | int (v : Int)
  | bytes (b : List Byte)
  deriving DecidableEq, Repr, Inhabited

/-- A Message (10_state.md rule R30). -/
structure Message where
  cls : MsgClass
  command : Byte
  address : Byte
  payload : Option (List Byte)
  header : Byte
  term0 : Byte
  term1 : Byte
  endian : Endian
  commandBytes : List Byte
  checksum : Byte
  xorCheck : Byte
  warn : Bool
  deriving DecidableEq, Repr, Inhabited

/-- The trailer of a frame (R12): checksum byte, xor byte, two terminator bytes. -/
structure Trailer where
  chk : Byte
  xor : Byte
  term0 : Byte
  term1 : Byte
  deriving DecidableEq, Repr, Inhabited

/-- The nineteen status fields a `FIELD` row describes (R95). -/
inductive FieldSel where
  | ampStable | ampSysstat | ampDrvunlock | ampDrvcur | ampPdval | ampPdstat | ampTemp
  | seedTset | seedTact | seedTdiode | seedIset | seedIact | seedPiezo | seedWavelen | seedPower | seedEmission
  | seedRunh | seedRunm | seedGrating
  deriving DecidableEq, Repr, Inhabited

/-- The operations, one constructor per row of spec/opcode_table.json, in the table's order. -/
inductive Instr where
  /- FRAME rows (30_encoding.md rule R80): a complete wire frame; HDR and ZERO are fixed, LEN is the payload's length. -/
  | frameSeedStatus (addr : Byte) (payload : List Byte) (tr : Trailer)
  | frameAmpStatus (addr : Byte) (payload : List Byte) (tr : Trailer)
  | frameRet (addr cmd : Byte) (payload : List Byte) (tr : Trailer)
  | frameCmd (addr cmd : Byte) (payload : List Byte) (tr : Trailer)
  /- RXEV rows (R41): the data bits of an event that is no byte are kept and ignored. -/
  | rxByte (b : Byte)
  | rxOverrun (x : Byte)
  | rxFatal (x : Byte)
  | rxTimeout (x : Byte)
  /- OP rows (R42). -/
  | chk (s : List Byte)
  | xorchk (s : List Byte)
  | encodeOp (cls : MsgClass) (cmd addr : Byte) (payload : Payload)
  | decodeOp (cls : MsgClass) (expected : Byte) (raw : List Byte)
  | recv
  | drain
  | await (id : Byte)
  | send (cmd addr : Byte) (payload : Payload)
  | ampdec (p : List Byte)
  | seeddec (p : List Byte)
  | ampStable (p : List Byte)
  | ampSysstat (p : List Byte)
  | ampDrvunlock (p : List Byte)
  | ampDrvcur (p : List Byte)
  | ampPdval (p : List Byte)
  | ampPdstat (p : List Byte)
  | ampTemp (p : List Byte)
  | seedTset (p : List Byte)
  | seedTact (p : List Byte)
  | seedTdiode (p : List Byte)
  | seedIset (p : List Byte)
  | seedIact (p : List Byte)
  | seedPiezo (p : List Byte)
  | seedWavelen (p : List Byte)
  | seedPower (p : List Byte)
  | seedEmission (p : List Byte)
  | seedRunh (p : List Byte)
  | seedRunm (p : List Byte)
  | seedGrating (p : List Byte)
  /- FIELD rows: the container bytes, all elements of the field in payload order; of the grating, its entries' containers
  in list order (log entry 26). -/
  | fieldAmpStable (c : List Byte)
  | fieldAmpSysstat (c : List Byte)
  | fieldAmpDrvunlock (c : List Byte)
  | fieldAmpDrvcur (c : List Byte)
  | fieldAmpPdval (c : List Byte)
  | fieldAmpPdstat (c : List Byte)
  | fieldAmpTemp (c : List Byte)
  | fieldSeedTset (c : List Byte)
  | fieldSeedTact (c : List Byte)
  | fieldSeedTdiode (c : List Byte)
  | fieldSeedIset (c : List Byte)
  | fieldSeedIact (c : List Byte)
  | fieldSeedPiezo (c : List Byte)
  | fieldSeedWavelen (c : List Byte)
  | fieldSeedPower (c : List Byte)
  | fieldSeedEmission (c : List Byte)
  | fieldSeedRunh (c : List Byte)
  | fieldSeedRunm (c : List Byte)
  | fieldSeedGrating (c : List Byte)
  /- DISPATCH rows (43_dispatch.md rule R180): keyed on the Message's command byte. -/
  | dispatchSeed (m : Message)
  | dispatchAmp (m : Message)
  | dispatchNone (m : Message)
  deriving DecidableEq, Repr

end Sys2Proof
end

