-- ==== Sys2Proof/Machine/Layout.lean ====
section
/-! DEFINITION. The layouts' default values (44_status_amp.md rule R201, 45_status_seed.md rule R231),
the open seed parameters narrowed to what the spec admits (R238, R241, R244), the Param-Length Tables (00_scope.md
rule R6, 10_state.md rule R31) and the configuration after reset (R31). -/

namespace Sys2Proof.Machine

/-- The numbers of R201 and the bit positions of R204, R206, R209. -/
def ampNumbers : AmpLayout where
  stable := ⟨0, 1, 1, 0⟩
  systemStatus := ⟨3, 2, 1, 0⟩
  driverUnlock := ⟨4, 1, 1, 0⟩
  driverCurrent := ⟨7, 2, 3, 2⟩
  pdValue := ⟨28, 2, 5, 0⟩
  pdStatus := ⟨36, 1, 4, 0⟩
  temperatures := ⟨42, 2, 4, 2⟩
  pdProtectionBits := [0, 1, 2, 3]
  temperatureProtectionBits := [4, 5, 6, 7, 8]
  enableControlBits := [0, 1, 2]
  enableFlagBits := [3, 4, 5]
  interlockBit := 6
  pdBits := ⟨0, 1, 2, 3, 4, 5, 6⟩

/-- `CFG.AMP_LAYOUT` (R201). -/
def ampLayoutDefault : BuiltAmpLayout := ⟨ampNumbers, by decide⟩

/-- The piezo field of the instance: the open parameters where R238 admits them (log entry 5). -/
def openPiezo : FieldSpec :=
  if piezoAdmissible ⟨Config.pzOff, Config.pzW, 1, Config.pzK⟩ then ⟨Config.pzOff, Config.pzW, 1, Config.pzK⟩
  else ⟨6, 1, 1, 0⟩

/-- The emission flag of the instance: the open parameters where R241 admits them (log entry 5). -/
def openEmission : EmissionSpec :=
  if emissionAdmissible ⟨Config.emOff, Config.emMask⟩ then ⟨Config.emOff, Config.emMask⟩ else ⟨6, 1⟩

/-- The grating list `GR` of the instance: the default of R244, empty. Another instance has another list, and the
statements about the seed decoder take every one. -/
def defaultGrating : List FieldSpec := []

/-- The pinned rows of R231 around given open fields. -/
def seedLayoutWith (piezo : FieldSpec) (emission : EmissionSpec) (grating : List FieldSpec) : SeedLayout where
  temperatureSet := ⟨0, 2, 1, 3⟩
  temperatureAct := ⟨18, 2, 1, 3⟩
  temperatureDiode := ⟨15, 2, 1, 3⟩
  currentSet := ⟨4, 2, 1, 0⟩
  currentAct := ⟨23, 2, 1, 0⟩
  piezoVoltage := piezo
  wavelength := ⟨31, 3, 1, 4⟩
  power := ⟨37, 1, 1, 0⟩
  emission := emission
  runHours := ⟨27, 2, 1, 0⟩
  runMinutes := ⟨29, 1, 1, 0⟩
  grating := grating

theorem openPiezo_admissible : piezoAdmissible openPiezo = true := by
  unfold openPiezo; split
  · assumption
  · decide

theorem openEmission_admissible : emissionAdmissible openEmission = true := by
  unfold openEmission; split
  · assumption
  · decide

theorem piezoAdmissible_fits {f : FieldSpec} (h : piezoAdmissible f = true) : FieldSpec.fitsOne seedPayLen f = true := by
  simp only [piezoAdmissible, Bool.and_eq_true, decide_eq_true_eq, beq_iff_eq] at h
  simp only [FieldSpec.fitsOne, FieldSpec.fits, decide_eq_true_eq, Bool.and_eq_true, beq_iff_eq, h.1.1.1.2, Nat.mul_one]
  exact ⟨h.1.2, trivial⟩

theorem seedLayoutWith_fits {pz : FieldSpec} {em : EmissionSpec} {gr : List FieldSpec} (hp : piezoAdmissible pz = true)
    (he : emissionAdmissible em = true) (hg : gr.all (FieldSpec.fitsOne seedPayLen) = true) :
    SeedLayout.fits (seedLayoutWith pz em gr) = true := by
  have hf := piezoAdmissible_fits hp
  have ho : em.offset < 40 := by
    simp only [emissionAdmissible, Bool.and_eq_true, decide_eq_true_eq] at he
    exact he.1.1
  simp [SeedLayout.fits, seedLayoutWith, hp, he, hf, ho]
  refine ⟨by decide, fun x hx => ?_⟩
  exact List.all_eq_true.mp hg x hx

/-- `CFG.SEED_LAYOUT`: the pinned rows of R231, the instance's open fields and the default grating list. -/
def seedLayoutDefault : BuiltSeedLayout :=
  ⟨seedLayoutWith openPiezo openEmission defaultGrating,
   seedLayoutWith_fits openPiezo_admissible openEmission_admissible rfl⟩

/-- How many container bytes a `FIELD` row has under a configuration (R95: width times count). -/
def fieldSize (cfg : Cfg) : FieldSel → Nat
  | .ampStable => FieldSpec.size cfg.ampLayout.stable
  | .ampSysstat => FieldSpec.size cfg.ampLayout.systemStatus
  | .ampDrvunlock => FieldSpec.size cfg.ampLayout.driverUnlock
  | .ampDrvcur => FieldSpec.size cfg.ampLayout.driverCurrent
  | .ampPdval => FieldSpec.size cfg.ampLayout.pdValue
  | .ampPdstat => FieldSpec.size cfg.ampLayout.pdStatus
  | .ampTemp => FieldSpec.size cfg.ampLayout.temperatures
  | .seedTset => FieldSpec.size cfg.seedLayout.temperatureSet
  | .seedTact => FieldSpec.size cfg.seedLayout.temperatureAct
  | .seedTdiode => FieldSpec.size cfg.seedLayout.temperatureDiode
  | .seedIset => FieldSpec.size cfg.seedLayout.currentSet
  | .seedIact => FieldSpec.size cfg.seedLayout.currentAct
  | .seedPiezo => FieldSpec.size cfg.seedLayout.piezoVoltage
  | .seedWavelen => FieldSpec.size cfg.seedLayout.wavelength
  | .seedPower => FieldSpec.size cfg.seedLayout.power
  | .seedEmission => 1
  | .seedRunh => FieldSpec.size cfg.seedLayout.runHours
  | .seedRunm => FieldSpec.size cfg.seedLayout.runMinutes
  | .seedGrating => (cfg.seedLayout.grating.map FieldSpec.size).sum

/-! The Param-Length Tables. -/

/-- What an entry that is not listed holds: invalid (R31; its length bits are the model's choice, log entry 4). -/
def LenTable.empty : LenEntry := ⟨false, 0⟩

/-- Read of table port entry `k`. -/
def LenTable.get : LenTable → Nat → LenEntry
  | [], _ => LenTable.empty
  | (n, e) :: t, k => if n = k then e else LenTable.get t k

/-- Write of table port entry `k`; keeps the canonical form. -/
def LenTable.set : LenTable → Nat → LenEntry → LenTable
  | [], k, e => if e = LenTable.empty then [] else [(k, e)]
  | (n, x) :: t, k, e =>
    if k < n then (if e = LenTable.empty then (n, x) :: t else (k, e) :: (n, x) :: t)
    else if k = n then (if e = LenTable.empty then t else (k, e) :: t)
    else (n, x) :: LenTable.set t k e

/-- The partial map of R6: the length of an identifier the table holds. -/
def LenTable.lookup (t : LenTable) (cmd : Byte) : Option Nat :=
  let e := LenTable.get t cmd.toNat
  if e.valid then some e.len else none

/-- The canonical form, from a lower bound for the next key: keys strictly rising and below 256, no entry equal to the
unlisted one, every length 0..64 (R31). -/
def LenTable.wfFrom : Nat → LenTable → Bool
  | _, [] => true
  | lo, (k, e) :: t =>
    decide (lo ≤ k) && decide (k < 256) && decide (e ≠ LenTable.empty) && decide (e.len ≤ maxPay)
      && LenTable.wfFrom (k + 1) t

/-- A Param-Length Table in canonical form. -/
def LenTable.wf (t : LenTable) : Bool := LenTable.wfFrom 0 t

/-- `TABLE(class)` of 41_codec.md. -/
def tableOf (cfg : Cfg) : MsgClass → LenTable
  | .command => cfg.cmdLen
  | .ret => cfg.retLen

/-- The configuration after reset (R31), around given build-time layouts. `ADDR` and `AMP_STATUS_ID` hold no value
until written; the byte the model keeps there is log entry 4. -/
def cfgAfterReset (amp : BuiltAmpLayout) (seed : BuiltSeedLayout) : Cfg where
  header := 0x50
  addr := 0
  addrWritten := false
  term0 := 0x0D
  term1 := 0x0A
  endian := .big
  overrunScope := .all
  ampStatusId := 0
  ampIdWritten := false
  retLen := [(0xB7, ⟨true, 40⟩)]
  cmdLen := []
  amp := amp
  seed := seed

/-- The configuration of State.reset. -/
def resetCfg : Cfg := cfgAfterReset ampLayoutDefault seedLayoutDefault

end Sys2Proof.Machine
end

