-- ==== Sys2Proof/WellFormed.lean ====
section
/-! DEFINITION. Which terms of `Instr` stand for a word of the spec's encodings (30_encoding.md rule R95). -/

namespace Sys2Proof

open Sys2Proof.Machine

/-- Well-formedness of an operation under a configuration. FRAME rows: the length byte is the payload's length, 40 and
64 for the two status frames, a return frame with a status frame's identifier and length is that status frame (R84), a
command frame carries at most `MAXPAY` bytes (R6). FIELD rows: as many container bytes as the layout gives. DISPATCH
rows: the command byte is the row's key, the amplifier's identifier first (R180). -/
def Instr.wf (cfg : Cfg) : Instr → Bool
  | .frameSeedStatus _ p _ => p.length == seedPayLen
  | .frameAmpStatus _ p _ => p.length == ampPayLen
  | .frameRet _ cmd p _ =>
    decide (p.length ≤ 255) && !(cmd == seedStatusId && p.length == seedPayLen)
      && !(cmd == cfg.ampStatusId && p.length == ampPayLen)
  | .frameCmd _ _ p _ => decide (p.length ≤ maxPay)
  | .rxByte _ => true
  | .rxOverrun _ => true
  | .rxFatal _ => true
  | .rxTimeout _ => true
  | .chk _ => true
  | .xorchk _ => true
  | .encodeOp _ _ _ _ => true
  | .decodeOp _ _ _ => true
  | .recv => true
  | .drain => true
  | .await _ => true
  | .send _ _ _ => true
  | .ampdec _ => true
  | .seeddec _ => true
  | .ampStable _ => true
  | .ampSysstat _ => true
  | .ampDrvunlock _ => true
  | .ampDrvcur _ => true
  | .ampPdval _ => true
  | .ampPdstat _ => true
  | .ampTemp _ => true
  | .seedTset _ => true
  | .seedTact _ => true
  | .seedTdiode _ => true
  | .seedIset _ => true
  | .seedIact _ => true
  | .seedPiezo _ => true
  | .seedWavelen _ => true
  | .seedPower _ => true
  | .seedEmission _ => true
  | .seedRunh _ => true
  | .seedRunm _ => true
  | .seedGrating _ => true
  | .fieldAmpStable c => c.length == fieldSize cfg .ampStable
  | .fieldAmpSysstat c => c.length == fieldSize cfg .ampSysstat
  | .fieldAmpDrvunlock c => c.length == fieldSize cfg .ampDrvunlock
  | .fieldAmpDrvcur c => c.length == fieldSize cfg .ampDrvcur
  | .fieldAmpPdval c => c.length == fieldSize cfg .ampPdval
  | .fieldAmpPdstat c => c.length == fieldSize cfg .ampPdstat
  | .fieldAmpTemp c => c.length == fieldSize cfg .ampTemp
  | .fieldSeedTset c => c.length == fieldSize cfg .seedTset
  | .fieldSeedTact c => c.length == fieldSize cfg .seedTact
  | .fieldSeedTdiode c => c.length == fieldSize cfg .seedTdiode
  | .fieldSeedIset c => c.length == fieldSize cfg .seedIset
  | .fieldSeedIact c => c.length == fieldSize cfg .seedIact
  | .fieldSeedPiezo c => c.length == fieldSize cfg .seedPiezo
  | .fieldSeedWavelen c => c.length == fieldSize cfg .seedWavelen
  | .fieldSeedPower c => c.length == fieldSize cfg .seedPower
  | .fieldSeedEmission c => c.length == fieldSize cfg .seedEmission
  | .fieldSeedRunh c => c.length == fieldSize cfg .seedRunh
  | .fieldSeedRunm c => c.length == fieldSize cfg .seedRunm
  | .fieldSeedGrating c => c.length == fieldSize cfg .seedGrating
  | .dispatchSeed m => m.command == seedStatusId && m.command != cfg.ampStatusId
  | .dispatchAmp m => m.command == cfg.ampStatusId
  | .dispatchNone m => m.command != seedStatusId && m.command != cfg.ampStatusId

end Sys2Proof
end

