-- ==== Sys2Proof/Decode.lean ====
section
/-! DEFINITION. The words of PFP and their decoding (30_encoding.md rules R80, R84, R95; 10_state.md rules R41, R42),
total on any bytes and rejecting by name, and after it the encoder and the reading of an opcode-table word.
A word is what one transaction or one internal hand-over carries: the bytes, and the place they stand at, because the
table's formats share their bit patterns (a FRAME.RET and a FRAME.CMD differ by direction alone, a FIELD container and a
DISPATCH key have no opcode; R83, R95). The operand bytes after an OP code are the model's layout (log entry 6): R42
gives the code alone. -/

namespace Sys2Proof

/-- Where a word stands. -/
inductive Channel where
  /-- A complete wire frame, received (`ret`) or about to be transmitted (`command`); the direction tells the class
  (R83). -/
  | frame (cls : MsgClass)
  /-- An RX event: two bytes, kind and data (R41). -/
  | rxev
  /-- An OP transaction: the operation code, then its operands (R42). -/
  | op
  /-- The container bytes of one status field (R95). -/
  | field (sel : FieldSel)
  /-- The DISPATCH key of the Message DECODE has just produced (R180): the word is its command byte. -/
  | dispatch (m : Message)
  deriving DecidableEq, Repr

/-- A word: its bytes and where they stand. -/
structure Packet where
  chan : Channel
  bytes : List Byte
  deriving DecidableEq, Repr

/-- Why a word is no operation. -/
inductive DecodeError where
  /-- No byte at all. -/
  | emptyWord
  /-- An OP code outside R42: every other code is refused. -/
  | undefinedOpCode (code : Byte)
  /-- The operand bytes do not fit the operation. -/
  | badOperand (code : Byte)
  /-- An RX event word is two bytes with a kind 0..3 (R41). -/
  | badRxWord
  /-- Fewer bytes than a frame has before its payload (R80). -/
  | frameTooShort
  /-- Offset 0 is not `CFG.HEADER` (R80). -/
  | frameHeader
  /-- Offset 1 is not `0x00` (R80). -/
  | frameZero
  /-- The size is not `9 + LEN` (R80). -/
  | frameSize
  /-- A command frame with more than `MAXPAY` payload bytes (R6). -/
  | frameTooLong
  /-- A container that is not as long as the layout says (R95). -/
  | fieldSize
  /-- A DISPATCH word that is not the command byte of its Message (R95). -/
  | dispatchKey
  deriving DecidableEq, Repr

/-! Operand bytes of an OP transaction. -/

/-- The integer whose base-256 digits are `l`, least significant first. -/
def natOfDigits : List Byte → Nat
  | [] => 0
  | b :: l => b.toNat + 256 * natOfDigits l

/-- The base-256 digits of `v`, least significant first; `fuel` bounds their number (any `fuel ≥ v` suffices). -/
def digitsOfNat : Nat → Nat → List Byte
  | 0, _ => []
  | fuel + 1, v => if v = 0 then [] else BitVec.ofNat 8 v :: digitsOfNat fuel (v / 256)

/-- The class operand: 0 `Command`, 1 `Return`. -/
def decodeClass : Byte → Option MsgClass
  | 0x00#8 => some .command
  | 0x01#8 => some .ret
  | _ => none

/-- The class operand's byte. -/
def encodeClass : MsgClass → Byte
  | .command => 0
  | .ret => 1

/-- The payload operand: a tag (0 absent, 1 integer, 2 byte sequence, 3 negative integer), then its bytes. -/
def decodePayload : List Byte → Option Payload
  | [] => none
  | t :: b =>
    match t.toNat with
    | 0 => if b = [] then some .absent else none
    | 1 => some (.int (natOfDigits b))
    | 2 => some (.bytes b)
    | 3 => some (.int (-(natOfDigits b : Int) - 1))
    | _ => none

/-- The payload operand's bytes. -/
def encodePayload : Payload → List Byte
  | .absent => [0]
  | .int (.ofNat n) => 1 :: digitsOfNat n n
  | .int (.negSucc n) => 3 :: digitsOfNat n n
  | .bytes b => 2 :: b

/-- An operation that takes no operand. -/
def noOperand (code : Byte) (rest : List Byte) (i : Instr) : Except DecodeError Instr :=
  if rest = [] then .ok i else .error (.badOperand code)

/-- The operands of ENCODE (R120). -/
def decodeEncodeOperands (code : Byte) : List Byte → Except DecodeError Instr
  | c :: cmd :: addr :: pl =>
    match decodeClass c, decodePayload pl with
    | some cls, some p => .ok (.encodeOp cls cmd addr p)
    | _, _ => .error (.badOperand code)
  | _ => .error (.badOperand code)

/-- The operands of DECODE (R125). -/
def decodeDecodeOperands (code : Byte) : List Byte → Except DecodeError Instr
  | c :: expected :: raw =>
    match decodeClass c with
    | some cls => .ok (.decodeOp cls expected raw)
    | none => .error (.badOperand code)
  | _ => .error (.badOperand code)

/-- The operand of AWAIT (R186). -/
def decodeAwaitOperand (code : Byte) : List Byte → Except DecodeError Instr
  | [id] => .ok (.await id)
  | _ => .error (.badOperand code)

/-- The operands of SEND (R188). -/
def decodeSendOperands (code : Byte) : List Byte → Except DecodeError Instr
  | cmd :: addr :: pl =>
    match decodePayload pl with
    | some p => .ok (.send cmd addr p)
    | none => .error (.badOperand code)
  | _ => .error (.badOperand code)

/-- An OP transaction (R42): the operation codes and, after them, the operands. -/
def decodeOpWord : List Byte → Except DecodeError Instr
  | [] => .error .emptyWord
  | code :: rest =>
    match code.toNat with
    | 0x01 => .ok (.chk rest)
    | 0x02 => .ok (.xorchk rest)
    | 0x03 => decodeEncodeOperands code rest
    | 0x04 => decodeDecodeOperands code rest
    | 0x05 => noOperand code rest .recv
    | 0x06 => noOperand code rest .drain
    | 0x07 => decodeAwaitOperand code rest
    | 0x08 => decodeSendOperands code rest
    | 0x09 => .ok (.ampdec rest)
    | 0x0A => .ok (.seeddec rest)
    | 0x10 => .ok (.ampStable rest)
    | 0x11 => .ok (.ampSysstat rest)
    | 0x12 => .ok (.ampDrvunlock rest)
    | 0x13 => .ok (.ampDrvcur rest)
    | 0x14 => .ok (.ampPdval rest)
    | 0x15 => .ok (.ampPdstat rest)
    | 0x16 => .ok (.ampTemp rest)
    | 0x20 => .ok (.seedTset rest)
    | 0x21 => .ok (.seedTact rest)
    | 0x22 => .ok (.seedTdiode rest)
    | 0x23 => .ok (.seedIset rest)
    | 0x24 => .ok (.seedIact rest)
    | 0x25 => .ok (.seedPiezo rest)
    | 0x26 => .ok (.seedWavelen rest)
    | 0x27 => .ok (.seedPower rest)
    | 0x28 => .ok (.seedEmission rest)
    | 0x29 => .ok (.seedRunh rest)
    | 0x2A => .ok (.seedRunm rest)
    | 0x2B => .ok (.seedGrating rest)
    | _ => .error (.undefinedOpCode code)

/-- An RX event word (R41): kind 0 BYTE, 1 OVERRUN, 2 FATAL, 3 TIMEOUT. -/
def decodeRxWord : List Byte → Except DecodeError Instr
  | [kind, data] =>
    match kind.toNat with
    | 0 => .ok (.rxByte data)
    | 1 => .ok (.rxOverrun data)
    | 2 => .ok (.rxFatal data)
    | 3 => .ok (.rxTimeout data)
    | _ => .error .badRxWord
  | _ => .error .badRxWord

/-- The trailer at the end of a frame, as four bytes. -/
def decodeTrailer : List Byte → Option Trailer
  | [c, x, t0, t1] => some ⟨c, x, t0, t1⟩
  | _ => none

/-- Which frame row a complete frame is (R84): by direction, then by identifier and length byte. -/
def frameInstr (cfg : Cfg) (cls : MsgClass) (addr cmd : Byte) (p : List Byte) (tr : Trailer) :
    Except DecodeError Instr :=
  match cls with
  | .command => if p.length ≤ maxPay then .ok (.frameCmd addr cmd p tr) else .error .frameTooLong
  | .ret =>
    if cmd = seedStatusId ∧ p.length = seedPayLen then .ok (.frameSeedStatus addr p tr)
    else if cmd = cfg.ampStatusId ∧ p.length = ampPayLen then .ok (.frameAmpStatus addr p tr)
    else .ok (.frameRet addr cmd p tr)

/-- A complete wire frame (R80). -/
def decodeFrameWord (cfg : Cfg) (cls : MsgClass) : List Byte → Except DecodeError Instr
  | h :: z :: addr :: cmd :: len :: rest =>
    if h ≠ cfg.header then .error .frameHeader
    else if z ≠ 0x00#8 then .error .frameZero
    else if rest.length ≠ len.toNat + 4 then .error .frameSize
    else
      match decodeTrailer (rest.drop len.toNat) with
      | some tr => frameInstr cfg cls addr cmd (rest.take len.toNat) tr
      | none => .error .frameSize
  | _ => .error .frameTooShort

/-- Which FIELD row a selector stands for. -/
def fieldInstr (c : List Byte) : FieldSel → Instr
  | .ampStable => .fieldAmpStable c
  | .ampSysstat => .fieldAmpSysstat c
  | .ampDrvunlock => .fieldAmpDrvunlock c
  | .ampDrvcur => .fieldAmpDrvcur c
  | .ampPdval => .fieldAmpPdval c
  | .ampPdstat => .fieldAmpPdstat c
  | .ampTemp => .fieldAmpTemp c
  | .seedTset => .fieldSeedTset c
  | .seedTact => .fieldSeedTact c
  | .seedTdiode => .fieldSeedTdiode c
  | .seedIset => .fieldSeedIset c
  | .seedIact => .fieldSeedIact c
  | .seedPiezo => .fieldSeedPiezo c
  | .seedWavelen => .fieldSeedWavelen c
  | .seedPower => .fieldSeedPower c
  | .seedEmission => .fieldSeedEmission c
  | .seedRunh => .fieldSeedRunh c
  | .seedRunm => .fieldSeedRunm c
  | .seedGrating => .fieldSeedGrating c

/-- Which DISPATCH row a Message takes (R180): the amplifier's identifier is compared first. -/
def dispatchInstr (cfg : Cfg) (m : Message) : Instr :=
  if m.command = cfg.ampStatusId then .dispatchAmp m
  else if m.command = seedStatusId then .dispatchSeed m
  else .dispatchNone m

/-- The decoder: total, rejecting by name. -/
def decode (cfg : Cfg) (p : Packet) : Except DecodeError Instr :=
  match p.chan with
  | .frame cls => decodeFrameWord cfg cls p.bytes
  | .rxev => decodeRxWord p.bytes
  | .op => decodeOpWord p.bytes
  | .field sel =>
    if p.bytes.length = Machine.fieldSize cfg sel then .ok (fieldInstr p.bytes sel) else .error .fieldSize
  | .dispatch m => if p.bytes = [m.command] then .ok (dispatchInstr cfg m) else .error .dispatchKey

/-! The encoder, from the same tables. -/

/-- The bytes of a frame (R80): `LEN` is the payload's length. -/
def frameBytes (header addr cmd : Byte) (p : List Byte) (tr : Trailer) : List Byte :=
  [header, 0x00, addr, cmd, BitVec.ofNat 8 p.length] ++ p ++ [tr.chk, tr.xor, tr.term0, tr.term1]

/-- The word of an operation. -/
def encode (cfg : Cfg) : Instr → Packet
  | .frameSeedStatus addr p tr => ⟨.frame .ret, frameBytes cfg.header addr seedStatusId p tr⟩
  | .frameAmpStatus addr p tr => ⟨.frame .ret, frameBytes cfg.header addr cfg.ampStatusId p tr⟩
  | .frameRet addr cmd p tr => ⟨.frame .ret, frameBytes cfg.header addr cmd p tr⟩
  | .frameCmd addr cmd p tr => ⟨.frame .command, frameBytes cfg.header addr cmd p tr⟩
  | .rxByte b => ⟨.rxev, [0x00, b]⟩
  | .rxOverrun x => ⟨.rxev, [0x01, x]⟩
  | .rxFatal x => ⟨.rxev, [0x02, x]⟩
  | .rxTimeout x => ⟨.rxev, [0x03, x]⟩
  | .chk s => ⟨.op, 0x01 :: s⟩
  | .xorchk s => ⟨.op, 0x02 :: s⟩
  | .encodeOp cls cmd addr p => ⟨.op, 0x03 :: encodeClass cls :: cmd :: addr :: encodePayload p⟩
  | .decodeOp cls expected raw => ⟨.op, 0x04 :: encodeClass cls :: expected :: raw⟩
  | .recv => ⟨.op, [0x05]⟩
  | .drain => ⟨.op, [0x06]⟩
  | .await id => ⟨.op, [0x07, id]⟩
  | .send cmd addr p => ⟨.op, 0x08 :: cmd :: addr :: encodePayload p⟩
  | .ampdec p => ⟨.op, 0x09 :: p⟩
  | .seeddec p => ⟨.op, 0x0A :: p⟩
  | .ampStable p => ⟨.op, 0x10 :: p⟩
  | .ampSysstat p => ⟨.op, 0x11 :: p⟩
  | .ampDrvunlock p => ⟨.op, 0x12 :: p⟩
  | .ampDrvcur p => ⟨.op, 0x13 :: p⟩
  | .ampPdval p => ⟨.op, 0x14 :: p⟩
  | .ampPdstat p => ⟨.op, 0x15 :: p⟩
  | .ampTemp p => ⟨.op, 0x16 :: p⟩
  | .seedTset p => ⟨.op, 0x20 :: p⟩
  | .seedTact p => ⟨.op, 0x21 :: p⟩
  | .seedTdiode p => ⟨.op, 0x22 :: p⟩
  | .seedIset p => ⟨.op, 0x23 :: p⟩
  | .seedIact p => ⟨.op, 0x24 :: p⟩
  | .seedPiezo p => ⟨.op, 0x25 :: p⟩
  | .seedWavelen p => ⟨.op, 0x26 :: p⟩
  | .seedPower p => ⟨.op, 0x27 :: p⟩
  | .seedEmission p => ⟨.op, 0x28 :: p⟩
  | .seedRunh p => ⟨.op, 0x29 :: p⟩
  | .seedRunm p => ⟨.op, 0x2A :: p⟩
  | .seedGrating p => ⟨.op, 0x2B :: p⟩
  | .fieldAmpStable c => ⟨.field .ampStable, c⟩
  | .fieldAmpSysstat c => ⟨.field .ampSysstat, c⟩
  | .fieldAmpDrvunlock c => ⟨.field .ampDrvunlock, c⟩
  | .fieldAmpDrvcur c => ⟨.field .ampDrvcur, c⟩
  | .fieldAmpPdval c => ⟨.field .ampPdval, c⟩
  | .fieldAmpPdstat c => ⟨.field .ampPdstat, c⟩
  | .fieldAmpTemp c => ⟨.field .ampTemp, c⟩
  | .fieldSeedTset c => ⟨.field .seedTset, c⟩
  | .fieldSeedTact c => ⟨.field .seedTact, c⟩
  | .fieldSeedTdiode c => ⟨.field .seedTdiode, c⟩
  | .fieldSeedIset c => ⟨.field .seedIset, c⟩
  | .fieldSeedIact c => ⟨.field .seedIact, c⟩
  | .fieldSeedPiezo c => ⟨.field .seedPiezo, c⟩
  | .fieldSeedWavelen c => ⟨.field .seedWavelen, c⟩
  | .fieldSeedPower c => ⟨.field .seedPower, c⟩
  | .fieldSeedEmission c => ⟨.field .seedEmission, c⟩
  | .fieldSeedRunh c => ⟨.field .seedRunh, c⟩
  | .fieldSeedRunm c => ⟨.field .seedRunm, c⟩
  | .fieldSeedGrating c => ⟨.field .seedGrating, c⟩
  | .dispatchSeed m => ⟨.dispatch m, [m.command]⟩
  | .dispatchAmp m => ⟨.dispatch m, [m.command]⟩
  | .dispatchNone m => ⟨.dispatch m, [m.command]⟩

/-! Words numbered as spec/opcode_table.json numbers them. -/

/-- The bytes of a number of `n` bytes, most significant first: a row's one word, offset 0 of a frame first (R95). -/
def bytesOfWord : Nat → Nat → List Byte
  | 0, _ => []
  | n + 1, w => BitVec.ofNat 8 (w >>> (8 * n)) :: bytesOfWord n w

/-- How many operand bytes of zeros an OP word of the table is completed with, so that the operation finds its
operands: none for a sequence of any length, a fixed payload's length for the status decoders, a 9-byte buffer for
DECODE. -/
def tableOperands (code : Nat) : Nat :=
  if code = 0x03 then 4
  else if code = 0x04 then 11
  else if code = 0x07 then 1
  else if code = 0x08 then 3
  else if code = 0x09 ∨ (0x10 ≤ code ∧ code ≤ 0x16) then ampPayLen
  else if code = 0x0A ∨ (0x20 ≤ code ∧ code ≤ 0x2B) then seedPayLen
  else 0

/-- The codes of R42. -/
def isOpCode (code : Nat) : Bool :=
  decide (1 ≤ code ∧ code ≤ 0x0A) || decide (0x10 ≤ code ∧ code ≤ 0x16) || decide (0x20 ≤ code ∧ code ≤ 0x2B)

/-- The Message an 8-bit DISPATCH word of the table stands for: its command byte, and a payload of zeros as long as
the slot wants. -/
def tableMessage (cmd : Byte) : Message where
  cls := .ret
  command := cmd
  address := 0
  payload := some (List.replicate (if cmd = seedStatusId then seedPayLen else ampPayLen) 0)
  header := 0x50
  term0 := 0x0D
  term1 := 0x0A
  endian := .big
  commandBytes := []
  checksum := 0
  xorCheck := 0
  warn := false

/-- Where a word of the opcode table stands: 40 bits a received frame's first five bytes, the rest zeros; 10 bits (two
bytes) an RX event; 24 bits the one field with a container of that size; 8 bits an OP code of R42, else a DISPATCH key. A
16-bit FIELD container has no word of its own here, since it carries no selector and reads as an RX event (log entry
7). -/
def tablePacket (nbits w : Nat) : Option Packet :=
  if nbits = 40 then some ⟨.frame .ret, bytesOfWord 5 w ++ List.replicate (w % 256 + 4) 0⟩
  else if nbits = 10 ∨ nbits = 16 then some ⟨.rxev, bytesOfWord 2 w⟩
  else if nbits = 24 then some ⟨.field .seedWavelen, bytesOfWord 3 w⟩
  else if nbits = 8 then
    if isOpCode w then some ⟨.op, BitVec.ofNat 8 w :: List.replicate (tableOperands w) 0⟩
    else some ⟨.dispatch (tableMessage (BitVec.ofNat 8 w)), [BitVec.ofNat 8 w]⟩
  else none

/-- The instruction the decoder reads from a word numbered as the opcode table numbers it, under the configuration
after reset. -/
def decodeTableWord (nbits w : Nat) : Option Instr :=
  match tablePacket nbits w with
  | none => none
  | some p =>
    match decode Machine.resetCfg p with
    | .ok i => some i
    | .error _ => none

end Sys2Proof
end

