-- ==== Sys2Proof/Machine/State.lean ====
section
/-! DEFINITION. The state of PFP as plain data (10_state.md rules R20 to R34, R40), its reasons to stop, and reset
(R43, 70_reset_and_hazards.md rule R300). The fields are in four groups: the architectural state of R20, the
configuration registers of R31, the model's own sequencing fields (which host operation runs and what it waits for;
R20 counts these among the parameters of a step), and the five channels of R40 as lists: what the transport and the
host will do, and what PFP has handed over. -/

namespace Sys2Proof.Machine

/-! What a decoder delivers. -/

/-- A scaled value (00_scope.md rule R11): the exact rational `raw / 10^scale`. -/
structure Scaled where
  raw : Nat
  scale : Nat
  deriving DecidableEq, Repr, Inhabited

/-- `SystemStatus` (44_status_amp.md rules R204, R205). -/
structure SystemStatus where
  pdProtection : List Bool
  temperatureProtection : List Bool
  fault : Bool
  deriving DecidableEq, Repr, Inhabited

/-- `DriverUnlock` (R206). -/
structure DriverUnlock where
  enableControl : List Bool
  enableFlag : List Bool
  interlock : Bool
  deriving DecidableEq, Repr, Inhabited

/-- `PDStatus` (R209, R210). -/
structure PDStatus where
  samplingEnable : Bool
  hardwareProtection : Bool
  upperLimitEnabled : Bool
  lowerLimitEnabled : Bool
  hardwareProtectionEvent : Bool
  upperLimitEvent : Bool
  lowerLimitEvent : Bool
  fault : Bool
  deriving DecidableEq, Repr, Inhabited

/-- `AmplifierStatus` (R200). -/
structure AmplifierStatus where
  stable : Bool
  systemStatus : SystemStatus
  driverUnlock : DriverUnlock
  driverCurrent : List Scaled
  pdValue : List Nat
  pdStatus : List PDStatus
  temperatures : List Scaled
  deriving DecidableEq, Repr, Inhabited

/-- `SeedStatus` (45_status_seed.md rule R230). -/
structure SeedStatus where
  temperatureSet : Scaled
  temperatureAct : Scaled
  temperatureDiode : Scaled
  currentSet : Nat
  currentAct : Nat
  piezoVoltage : Scaled
  wavelength : Scaled
  power : Nat
  emission : Bool
  runHours : Nat
  runMinutes : Nat
  grating : List Scaled
  deriving DecidableEq, Repr, Inhabited

/-! Registers. -/

/-- A status slot (R32, R33). -/
structure Slot where
  valid : Bool
  raw : List Byte
  deriving DecidableEq, Repr, Inhabited

/-- Which slot. -/
inductive SlotSel where
  | amp
  | seed
  deriving DecidableEq, Repr, Inhabited

/-- `WSTATE` (R25; R31 no. 9). -/
inductive WState where
  | idle
  | waiting
  | matched
  deriving DecidableEq, Repr, Inhabited

/-- The error an operation ended with (60_exceptions.md rule R260), 0 first. -/
inductive ErrCode where
  | none
  | badHeader
  | badTerminator
  | unknownCommand
  | checksumMismatch
  | xorMismatch
  | wrongLength
  | payloadMissing
  | transportFatal
  | transportTimeout
  | transportOverrun
  deriving DecidableEq, Repr, Inhabited

/-- A host operation's result on channel `RES` (R40). -/
inductive Result where
  | nothing
  | byte (b : Byte)
  | message (m : Message)
  | flag (b : Bool)
  | systemStatus (v : SystemStatus)
  | driverUnlock (v : DriverUnlock)
  | pdStatus (v : List PDStatus)
  | scaled (v : Scaled)
  | scaledList (v : List Scaled)
  | number (v : Nat)
  | numbers (v : List Nat)
  | ampStatus (v : AmplifierStatus)
  | seedStatus (v : SeedStatus)
  | bytes (b : List Byte)
  | tableEntry (e : LenEntry)
  | errInfo (e : ErrInfo)
  deriving DecidableEq, Repr, Inhabited

/-- What PFP hands the host on channel `RES` (R40, R268): the two kinds of event, `OP_DONE` together with the
operation's result, and the answer to a host read. -/
inductive ResEvent where
  | slotUpdated (slot : SlotSel)
  | opDone (err : ErrCode) (r : Result)
  | readback (r : Result)
  deriving DecidableEq, Repr, Inhabited

/-! The host's transactions (R31, R40). -/

/-- A write of a configuration register or table port (R31). `ENDIAN`, `OVERRUN_SCOPE` are one bit; a table port takes
a valid bit and a 7-bit length. -/
inductive CfgWrite where
  | header (b : Byte)
  | addr (b : Byte)
  | term (b0 b1 : Byte)
  | endian (e : Endian)
  | overrunScope (v : OverrunScope)
  | ampStatusId (b : Byte)
  | lenTable (cls : MsgClass) (id : Byte) (valid : Bool) (len : BitVec 7)
  deriving DecidableEq, Repr, Inhabited

/-- What the host can read (R31, R34). -/
inductive ReadSel where
  | header | addr | term | endian | overrunScope | ampStatusId
  | err | lenWarn | busy | wstate | awaitId
  | slotAmpValid | slotSeedValid | lastMsgValid
  | lenTable (cls : MsgClass) (id : Byte)
  | slotRaw (slot : SlotSel) (i : Nat)
  | slotRawAll (slot : SlotSel)
  | lastMsg
  | errInfo
  | ampView
  | seedView
  deriving DecidableEq, Repr, Inhabited

/-- A host transaction that starts no operation. -/
inductive PortAct where
  /-- Write a configuration register. -/
  | cfgWrite (w : CfgWrite)
  /-- Write `LEN_WARN` (R27: writing 0 clears it). -/
  | writeLenWarn (b : Bool)
  /-- Read a register, an array port or a decoded view. -/
  | read (r : ReadSel)
  /-- Apply reset (R300): at any time. -/
  | reset
  deriving DecidableEq, Repr, Inhabited

/-- One thing the host does. -/
inductive HostAct where
  /-- Start an operation: a transaction on `OP`, its bytes. -/
  | op (word : List Byte)
  /-- Read one field of a decoded view (R34): a FIELD word. -/
  | viewField (sel : FieldSel)
  /-- A register access or reset. -/
  | port (a : PortAct)
  deriving DecidableEq, Repr, Inhabited

/-- Which agent moves next (R8). -/
inductive Agent where
  | host
  | engine
  deriving DecidableEq, Repr, Inhabited

/-! Sequencing: the model's own fields. -/

/-- The host operation that is running and needs bytes (R8), with SEND's frame as its operand. -/
inductive Run where
  | none
  | recv
  | drain
  | await
  | send (frame : List Byte)
  deriving DecidableEq, Repr, Inhabited

/-- What the running operation waits for. -/
inductive Ctl where
  /-- No operation runs. -/
  | idle
  /-- The engine asks for its next byte (42_synchronizer.md rule R150). -/
  | rx
  /-- DRAIN and SEND, at a frame boundary: the `AVAIL` query (43_dispatch.md rule R184). -/
  | avail
  /-- A complete buffer handed to the Message Codec. No run reaches it: RXSTEP.BYTE decodes in the same step (R155);
  it is where a FRAME word of the opcode table stands (log entry 8). -/
  | frame (raw : List Byte)
  /-- A Message DECODE has produced, waiting for DISPATCH (R180). -/
  | dispatch (m : Message)
  /-- SEND after its drain: the TX write (R188). -/
  | tx
  deriving DecidableEq, Repr, Inhabited

/-- The state. -/
structure State where
  buf : List Byte
  replay : List Byte
  wstate : WState
  awaitId : Byte
  err : ErrCode
  errInfo : ErrInfo
  lenWarn : Bool
  busy : Bool
  lastMsgValid : Bool
  lastMsg : Message
  slotAmp : Slot
  slotSeed : Slot
  cfg : Cfg
  run : Run
  ctl : Ctl
  rx : List RxWord
  avail : List Nat
  txAns : List Bool
  host : List HostAct
  turns : List Agent
  tx : List (List Byte)
  res : List ResEvent
  consumed : Nat
  fresh : Nat
  deriving DecidableEq, Repr

/-- Why the machine stops. PFP has no traps: its errors are next states (R273). -/
inductive Fault where
  /-- Raised by AVAIL answers, DISPATCH and the TX write in a state whose sequencing fields `run` and `ctl` contradict
  each other. No state that meets `Inv` raises it; safe: the model stops where the spec describes no such machine. -/
  | brokenSequence
  deriving DecidableEq, Repr

/-- Why an operation has no meaning (00_scope.md rule R10: `refuse`; 60_exceptions.md rule R276 lists the refusals).
Every refusal leaves the machine as it was, and is safe: the spec gives a refused operation no meaning. -/
inductive Refusal where
  /-- Raised by an arm of exec whose instruction has no meaning yet; safe. -/
  | notModelled (mnemonic : String)
  /-- Raised by step for a word the decoder rejects, an undefined `OP` code among them (R42, R276); safe. -/
  | undecodable (e : DecodeError)
  /-- Raised by every host operation started while `BUSY = 1` (R28, R276); safe. -/
  | busy
  /-- Raised by RECV, DRAIN, AWAIT, SEND before `CFG.ADDR` and `AMP_STATUS_ID` have been written (R302, R276); safe. -/
  | unconfigured
  /-- Raised by ENCODE and SEND for an identifier the class's table does not hold (R121); safe. -/
  | unknownIdentifier
  /-- Raised by ENCODE and SEND for an absent payload where the table wants bytes (R123); safe. -/
  | payloadRequired
  /-- Raised by ENCODE and SEND for a payload where the table wants none (R123); safe. -/
  | noPayloadExpected
  /-- Raised by ENCODE and SEND for a negative integer or one that is `256^Lt` or more (R122); safe. -/
  | doesNotFit
  /-- Raised by ENCODE and SEND for a byte sequence whose length is not the table's (R122); safe. -/
  | wrongPayloadLength
  /-- Raised by DECODE on a buffer shorter than 9 bytes or not of `9 + raw[4]` bytes (R132); safe. -/
  | malformedBuffer
  /-- Raised by step for a `CFG` write while `BUSY = 1` (R74, R309); safe. -/
  | cfgWriteWhileBusy
  /-- Raised by step for a table port write with a length above 64 (R31, R276); safe. -/
  | tableLengthTooLarge
  /-- Raised by step for a read of a slot's `RAW` or view while its `VALID = 0` (R32, R276); safe. -/
  | slotInvalid
  /-- Raised by step for a read of `LASTMSG` while `LASTMSG_VALID = 0` (R276); safe. -/
  | lastMsgInvalid
  /-- Raised by step for an array port index past the array's end (R31); safe. -/
  | noSuchPort
  /-- Raised by a FIELD row on a container that is not as long as the layout says: such a `MemRead` has no meaning (R64).
  The decoder rejects such a word before; safe. -/
  | containerSize
  /-- Raised by RXSTEP, a received FRAME and DISPATCH when no operation that needs them is running (R8); safe. -/
  | noEngineRequest
  deriving DecidableEq, Repr

/-! Reset. -/

/-- A Message of zeros: what `LASTMSG` holds at reset, where the spec leaves it unspecified (log entry 4). -/
def messageAtReset : Message where
  cls := .command
  command := 0
  address := 0
  payload := none
  header := 0
  term0 := 0
  term1 := 0
  endian := .big
  commandBytes := []
  checksum := 0
  xorCheck := 0
  warn := false

/-- An `ERRINFO` of zeros: what it holds at reset, where the spec leaves it unspecified (log entry 4). -/
def errInfoAtReset : ErrInfo := ⟨0, 0, 0, 0, 0, 0, 0, 0, 0, 0, 0, 0⟩

/-- The machine right after reset (R43, R300, R31): nothing held, nothing valid, the configuration at its reset values.
The channels are empty: the model's own fields, log entry 9. -/
def State.reset : State where
  buf := []
  replay := []
  wstate := .idle
  awaitId := 0
  err := .none
  errInfo := errInfoAtReset
  lenWarn := false
  busy := false
  lastMsgValid := false
  lastMsg := messageAtReset
  slotAmp := ⟨false, List.replicate ampPayLen 0⟩
  slotSeed := ⟨false, List.replicate seedPayLen 0⟩
  cfg := resetCfg
  run := .none
  ctl := .idle
  rx := []
  avail := []
  txAns := []
  host := []
  turns := []
  tx := []
  res := []
  consumed := 0
  fresh := 0

end Sys2Proof.Machine
end

