-- ==== Sys2Proof/Machine/Operands.lean ====
section
/-! DEFINITION. How operands are assembled from bytes and bytes made from operands (30_encoding.md rules R88, R93;
00_scope.md rule R10; 41_codec.md rules R121 to R123). -/

namespace Sys2Proof.Machine

/-- The unsigned integer a byte sequence stands for, most significant byte first. -/
def assembleBig : List Byte → Nat
  | [] => 0
  | b :: bs => b.toNat * 256 ^ bs.length + assembleBig bs

/-- The unsigned integer a byte sequence stands for, least significant byte first. -/
def assembleLittle : List Byte → Nat
  | [] => 0
  | b :: bs => b.toNat + 256 * assembleLittle bs

/-- Numeric assembly in `CFG.ENDIAN` order (R10, R61). -/
def assemble : Endian → List Byte → Nat
  | .big, bs => assembleBig bs
  | .little, bs => assembleLittle bs

/-- `MemRead(o, n)` of payload `p` (R10). Defined only when `o + n ≤ len(p)` (R64): callers check that first. -/
def memRead (e : Endian) (p : List Byte) (o n : Nat) : Nat := assemble e ((p.drop o).take n)

/-- The container bytes of a field in a payload: all its elements, in payload order (R88). -/
def fieldSlice (f : FieldSpec) (p : List Byte) : List Byte := (p.drop f.offset).take (f.width * f.count)

/-- The element values of a field, from its container bytes: element `i` is `MemRead(width * i, width)` of the
container, that is `MemRead(offset + width * i, width)` of the payload (R88). -/
def fieldValues (e : Endian) (f : FieldSpec) (c : List Byte) : List Nat :=
  (List.range f.count).map fun i => memRead e c (f.width * i) f.width

/-- The value of a field with one element. -/
def fieldValue (e : Endian) (f : FieldSpec) (c : List Byte) : Nat := memRead e c 0 f.width

/-- The container bytes of the grating list: its entries' containers one after the other, in list order. DESIGN CHOICE (log
entry 26): R244 and R95 leave the container of this row open. -/
def gratingSlice (gs : List FieldSpec) (p : List Byte) : List Byte := gs.flatMap fun g => fieldSlice g p

/-- The `L`-byte representation of `v` (R93): for `big`, byte `j` is `(v >> (8*(L-1-j))) & 0xFF`. -/
def payloadOfInt (e : Endian) (v len : Nat) : List Byte :=
  match e with
  | .big => (List.range len).map fun j => BitVec.ofNat 8 (v >>> (8 * (len - 1 - j)))
  | .little => (List.range len).map fun j => BitVec.ofNat 8 (v >>> (8 * j))

/-- The payload bytes of ENCODE's operand for table length `lt`, or why it is refused (R122, R123). -/
def encodePayloadBytes (e : Endian) (lt : Nat) : Payload → Except Refusal (List Byte)
  | .absent => if lt = 0 then .ok [] else .error .payloadRequired
  | .int v =>
    if lt = 0 then .error .noPayloadExpected
    else if v < 0 ∨ (256 ^ lt : Nat) ≤ v then .error .doesNotFit
    else .ok (payloadOfInt e v.toNat lt)
  | .bytes b =>
    if lt = 0 then .error .noPayloadExpected
    else if b.length ≠ lt then .error .wrongPayloadLength
    else .ok b

end Sys2Proof.Machine
end

