-- ==== Sys2Proof/Machine/Flags.lean ====
section
/-! DEFINITION. The check bytes and the flags: the Checksum Unit's functions (40_checksum.md rules R110, R111), bit flags
of a status value (30_encoding.md rule R91), and what `ERRINFO` records for each error (60_exceptions.md rule R260). -/

namespace Sys2Proof.Machine

/-- `sum8(s)` (R10, R110): the sum of the bytes modulo 256, 0 for the empty sequence. -/
def sum8 : List Byte → Byte
  | [] => 0
  | b :: bs => b + sum8 bs

/-- `xor8(s)` (R10, R111): the exclusive-or of the bytes, 0 for the empty sequence. -/
def xor8 : List Byte → Byte
  | [] => 0
  | b :: bs => b ^^^ xor8 bs

/-- `v.bit(k)` (R9). -/
def bitAt (v k : Nat) : Bool := v.testBit k

/-- A flag tuple: the bits of `v` at the given positions, in order (R91). -/
def bitsAt (v : Nat) (ks : List Nat) : List Bool := ks.map (bitAt v)

/-- A "nonzero" test (R91). -/
def nonzero (v : Nat) : Bool := v != 0

/-- `SystemStatus` of an assembled value (R204); `fault` is over the whole value, unassigned bits included (R205). -/
def systemStatusOf (l : AmpLayout) (v : Nat) : SystemStatus where
  pdProtection := bitsAt v l.pdProtectionBits
  temperatureProtection := bitsAt v l.temperatureProtectionBits
  fault := nonzero v

/-- `DriverUnlock` of an assembled value (R206). -/
def driverUnlockOf (l : AmpLayout) (v : Nat) : DriverUnlock where
  enableControl := bitsAt v l.enableControlBits
  enableFlag := bitsAt v l.enableFlagBits
  interlock := bitAt v l.interlockBit

/-- `PDStatus` of one status byte (R209); `fault` is the OR of the three event bits (R210). -/
def pdStatusOf (b : PdBits) (v : Nat) : PDStatus where
  samplingEnable := bitAt v b.samplingEnable
  hardwareProtection := bitAt v b.hardwareProtection
  upperLimitEnabled := bitAt v b.upperLimitEnabled
  lowerLimitEnabled := bitAt v b.lowerLimitEnabled
  hardwareProtectionEvent := bitAt v b.hardwareProtectionEvent
  upperLimitEvent := bitAt v b.upperLimitEvent
  lowerLimitEvent := bitAt v b.lowerLimitEvent
  fault := bitAt v b.hardwareProtectionEvent || bitAt v b.upperLimitEvent || bitAt v b.lowerLimitEvent

/-- Byte `i` of a sequence; callers have checked its length. -/
def byteAt (s : List Byte) (i : Nat) : Byte := s.getD i 0

/-- The bytes both checks cover (41_codec.md rule R128): `raw[1 : n-4]`. -/
def coveredBytes (raw : List Byte) : List Byte := (raw.drop 1).take (raw.length - 5)

/-- The parts of `ERRINFO` that an error of DECODE on buffer `raw` records (R260); the rest keeps what `free` has. -/
def frameErrInfo (e : ErrCode) (raw : List Byte) (free : ErrInfo) : ErrInfo :=
  let n := raw.length
  match e with
  | .badHeader =>
    { free with raw0 := byteAt raw 0, raw1 := byteAt raw 1, raw2 := byteAt raw 2, command := byteAt raw 3,
                length := byteAt raw 4 }
  | .badTerminator =>
    { free with command := byteAt raw 3, length := byteAt raw 4, term0 := byteAt raw (n - 2),
                term1 := byteAt raw (n - 1) }
  | .unknownCommand => { free with command := byteAt raw 3, length := byteAt raw 4 }
  | .checksumMismatch | .xorMismatch =>
    { free with command := byteAt raw 3, length := byteAt raw 4, chkFound := byteAt raw (n - 4),
                chkCalc := sum8 (coveredBytes raw), xorFound := byteAt raw (n - 3),
                xorCalc := xor8 (coveredBytes raw) }
  | _ => free

/-- What `ERRINFO` records for `WrongLength` (R260): the length found. -/
def lengthErrInfo (n : Nat) (free : ErrInfo) : ErrInfo := { free with lengthFound := n }

/-- What `ERRINFO` records for `PayloadMissing` (R260): the command. -/
def commandErrInfo (cmd : Byte) (free : ErrInfo) : ErrInfo := { free with command := cmd }

end Sys2Proof.Machine
end

