-- ==== Sys2Proof/Machine/Ops.lean ====
section
/-! DEFINITION. The operations every meaning is written over: starting and ending a host operation, raising an error (the
one shared operation that takes PFP's exceptions; 60_exceptions.md rule R273), the codec's functions
(41_codec.md rules R120, R125), the slot overwrite, and the delivery of a frame to the running operation. PFP has no
return from an error: the host starts another operation (R275). -/

namespace Sys2Proof.Machine

/-- The outcome of a step. -/
abbrev StepResult := Host.Outcome State Fault Refusal

/-! Ending an operation. -/

/-- The end of a host operation: `ERR` and `ERRINFO` written together (R26), `BUSY <- 0`, `OP_DONE` signalled with the
result (R268, R273). `info` puts what the error records into the free `ERRINFO` (log entry 3). -/
def State.finish (s : State) (e : ErrCode) (info : ErrInfo → ErrInfo) (r : Result) : State :=
  { s with
    err := e, errInfo := info (Config.freeErrInfo s.fresh), fresh := s.fresh + 1, busy := false, run := .none,
    ctl := .idle, res := s.res ++ [.opDone e r] }

/-- A host operation that ended well: `ERR <- 0`; no error's row of R260 names a part of `ERRINFO`. -/
def State.complete (s : State) (r : Result) : State := s.finish .none id r

/-- `BUF <- []` and `REPLAY <- []` (42_synchronizer.md rule R158). -/
def State.clearEngine (s : State) : State := { s with buf := [], replay := [] }

/-- The transport errors of R260. -/
def isTransport : ErrCode → Bool
  | .transportFatal | .transportTimeout | .transportOverrun => true
  | _ => false

/-- `raise E(info)` inside a host operation (R273): a transport error clears the engine first; `ERR`, `ERRINFO`; `BUSY`;
`OP_DONE` with no result. Nothing else changes. -/
def State.raise (s : State) (e : ErrCode) (info : ErrInfo → ErrInfo) : State :=
  (if isTransport e then s.clearEngine else s).finish e info .nothing

/-! Starting an operation. -/

/-- A host operation that needs no bytes from the transport: refused while `BUSY = 1` (R28); otherwise it starts, which
sets `WSTATE <- IDLE` (R25), and `k` ends it in the same step. -/
def startPure (s : State) (k : State → StepResult) : StepResult :=
  if s.busy then .refused .busy else k { s with wstate := .idle }

/-- `CFG.ADDR` and `AMP_STATUS_ID` have been written since reset (R302). -/
def configured (s : State) : Bool := s.cfg.addrWritten && s.cfg.ampIdWritten

/-- A host operation that uses the engine: refused while `BUSY = 1` (R28) or before bring-up (R302). -/
def startEngine (s : State) (k : State → StepResult) : StepResult :=
  if s.busy then .refused .busy
  else if configured s then k s
  else .refused .unconfigured

/-- The operation runs: `BUSY <- 1`, `WSTATE`, and what it waits for first. -/
def State.begin (s : State) (w : WState) (r : Run) (c : Ctl) : State :=
  { s with busy := true, wstate := w, run := r, ctl := c }

/-! The codec. -/

/-- ENCODE's Message, or why its operands are refused (R120 to R124). -/
def codecEncode (cfg : Cfg) (cls : MsgClass) (cmd addr : Byte) (payload : Payload) : Except Refusal Message :=
  match LenTable.lookup (tableOf cfg cls) cmd with
  | none => .error .unknownIdentifier
  | some lt =>
    match encodePayloadBytes cfg.endian lt payload with
    | .error r => .error r
    | .ok pb =>
      let body : List Byte := [0x00, addr, cmd, BitVec.ofNat 8 pb.length] ++ pb
      let c := sum8 body
      let x := xor8 body
      .ok { cls := cls, command := cmd, address := addr, payload := if lt = 0 then none else some pb,
            header := cfg.header, term0 := cfg.term0, term1 := cfg.term1, endian := cfg.endian,
            commandBytes := [cfg.header] ++ body ++ [c, x] ++ [cfg.term0, cfg.term1],
            checksum := c, xorCheck := x, warn := false }

/-- What DECODE answers. -/
inductive DecodeOutcome where
  | malformed
  | error (e : ErrCode)
  | message (m : Message)
  deriving DecidableEq, Repr

/-- The Message of a buffer that passed every check, for table length `lt` (R125, R130, R131). -/
def decodedMessage (cfg : Cfg) (raw : List Byte) (cls : MsgClass) (lt : Nat) : Message :=
  let n := raw.length
  let lf := (byteAt raw 4).toNat
  { cls := cls, command := byteAt raw 3, address := byteAt raw 2,
    payload := if lt = 0 then none else some ((raw.drop 5).take (min lt lf)),
    header := byteAt raw 0, term0 := byteAt raw (n - 2), term1 := byteAt raw (n - 1), endian := cfg.endian,
    commandBytes := raw, checksum := byteAt raw (n - 4), xorCheck := byteAt raw (n - 3), warn := lt != lf }

/-- DECODE (R125): the five checks in the order written, the first that fails reported (R270). -/
def codecDecode (cfg : Cfg) (raw : List Byte) (expected : Byte) (cls : MsgClass) : DecodeOutcome :=
  let n := raw.length
  if n < 9 ∨ n ≠ 9 + (byteAt raw 4).toNat then .malformed
  else if byteAt raw 0 ≠ cfg.header ∨ byteAt raw 1 ≠ 0x00#8 ∨ byteAt raw 2 ≠ expected then .error .badHeader
  else if byteAt raw (n - 2) ≠ cfg.term0 ∨ byteAt raw (n - 1) ≠ cfg.term1 then .error .badTerminator
  else
    match LenTable.lookup (tableOf cfg cls) (byteAt raw 3) with
    | none => .error .unknownCommand
    | some lt =>
      if sum8 (coveredBytes raw) ≠ byteAt raw (n - 4) then .error .checksumMismatch
      else if xor8 (coveredBytes raw) ≠ byteAt raw (n - 3) then .error .xorMismatch
      else .message (decodedMessage cfg raw cls lt)

/-! The receive path. -/

/-- The engine's position in the frame (10_state.md rule R24), a function of `BLEN`. -/
inductive Phase where
  | hunt
  | addr
  | cmdLen
  | body
  deriving DecidableEq, Repr

/-- `PHASE` (R24). -/
def phaseOf (buf : List Byte) : Phase :=
  if buf.length = 0 then .hunt
  else if buf.length < 3 then .addr
  else if buf.length < 5 then .cmdLen
  else .body

/-- The engine has a request outstanding: a host operation that needs bytes is active and waits for one (R8, R150). -/
def engineActive (s : State) : Bool := s.ctl == .rx

/-- A complete frame handed to DECODE with `CFG.ADDR` and class `Return` (R155): a FrameError ends the operation; a
Message goes on to DISPATCH. `BUF` is emptied either way, and a length mismatch sets `LEN_WARN` (R131). -/
def receiveFrame (raw : List Byte) (s : State) : StepResult :=
  match codecDecode s.cfg raw s.cfg.addr .ret with
  | .malformed => .refused .malformedBuffer
  | .error e => .next (({ s with buf := [] }).raise e (frameErrInfo e raw))
  | .message m => .next { s with buf := [], lenWarn := s.lenWarn || m.warn, ctl := .dispatch m }

/-- A FRAME word received while the engine's operation holds it (log entry 8). -/
def receiveFrameWord (raw : List Byte) (s : State) : StepResult :=
  if s.run = .none then .refused .noEngineRequest else receiveFrame raw s

/-- The slots as one array (R32, R33). -/
def State.slot (s : State) : SlotSel → Slot
  | .amp => s.slotAmp
  | .seed => s.slotSeed

/-- The slot overwrite (43_dispatch.md rule R181) and the event `SLOT_UPDATED` (R268). -/
def State.storeSlot (s : State) (sel : SlotSel) (p : List Byte) : State :=
  match sel with
  | .amp => { s with slotAmp := ⟨true, p⟩, res := s.res ++ [.slotUpdated .amp] }
  | .seed => { s with slotSeed := ⟨true, p⟩, res := s.res ++ [.slotUpdated .seed] }

/-- `LASTMSG <- m`, `LASTMSG_VALID <- 1` (R160). -/
def State.deliver (s : State) (m : Message) : State := { s with lastMsg := m, lastMsgValid := true }

/-- What follows a dispatched frame (R192): the write of `LASTMSG`, then RECV ends with the Message (R160), DRAIN and
SEND ask `AVAIL` again (R184), AWAIT compares with `AWAIT_ID` and ends or reads on (R186). -/
def frameDone (m : Message) (s : State) : StepResult :=
  match s.run with
  | .none => .fault .brokenSequence
  | .recv => .next ((s.deliver m).complete (.message m))
  | .drain => .next { s.deliver m with ctl := .avail }
  | .send _ => .next { s.deliver m with ctl := .avail }
  | .await =>
    if m.command = s.awaitId then .next ({ s.deliver m with wstate := .matched }.complete (.message m))
    else .next { s.deliver m with ctl := .rx }

/-- DISPATCH to a slot that wants `want` bytes (R180 to R182). -/
def dispatchTo (sel : SlotSel) (want : Nat) (m : Message) (s : State) : StepResult :=
  if s.run = .none then .refused .noEngineRequest
  else
    match m.payload with
    | none => .next (s.raise .payloadMissing (commandErrInfo m.command))
    | some p =>
      if p.length ≠ want then .next (s.raise .wrongLength (lengthErrInfo p.length))
      else frameDone m (s.storeSlot sel p)

/-- The transport's answer to the `AVAIL` query (R184): a frame more, or the end of the drain, after which SEND writes
(R188). -/
def availAnswer (n : Nat) (s : State) : StepResult :=
  if 0 < n then .next { s with ctl := .rx }
  else
    match s.run with
    | .drain => .next (s.complete .nothing)
    | .send _ => .next { s with ctl := .tx }
    | _ => .fault .brokenSequence

/-! The status decoders. -/

/-- A status decoder or field extractor started by the host on payload `p` (R64, R200, R230): `WrongLength` unless the
payload has exactly `want` bytes. -/
def decodeStatus (want : Nat) (p : List Byte) (r : Result) (s : State) : StepResult :=
  startPure s fun s =>
    if p.length ≠ want then .next (s.raise .wrongLength (lengthErrInfo p.length))
    else .next (s.complete r)

/-- One field pattern evaluated on its container bytes (R95): the value goes to the host, no register changes (R34,
R66). -/
def evalField (sel : FieldSel) (c : List Byte) (r : Result) (s : State) : StepResult :=
  if c.length = fieldSize s.cfg sel then .next { s with res := s.res ++ [.readback r] }
  else .refused .containerSize

end Sys2Proof.Machine
end

