-- ==== Sys2Proof/Machine/Amp.lean ====
section
/-! DEFINITION. The amplifier status decoder (44_status_amp.md): the value of each field from its container bytes under
`CFG.AMP_LAYOUT`, AMPDEC, its seven extractors, and the seven FIELD rows. -/

namespace Sys2Proof.Machine

/-- `stable` (R203). -/
def ampStableOf (cfg : Cfg) (c : List Byte) : Bool := nonzero (fieldValue cfg.endian cfg.ampLayout.stable c)

/-- `system_status` (R204, R205). -/
def ampSysstatOf (cfg : Cfg) (c : List Byte) : SystemStatus :=
  systemStatusOf cfg.ampLayout (fieldValue cfg.endian cfg.ampLayout.systemStatus c)

/-- `driver_unlock` (R206). -/
def ampDrvunlockOf (cfg : Cfg) (c : List Byte) : DriverUnlock :=
  driverUnlockOf cfg.ampLayout (fieldValue cfg.endian cfg.ampLayout.driverUnlock c)

/-- `driver_current` (R207). -/
def ampDrvcurOf (cfg : Cfg) (c : List Byte) : List Scaled :=
  (fieldValues cfg.endian cfg.ampLayout.driverCurrent c).map fun v => ⟨v, cfg.ampLayout.driverCurrent.scale⟩

/-- `pd_value` (R208). -/
def ampPdvalOf (cfg : Cfg) (c : List Byte) : List Nat := fieldValues cfg.endian cfg.ampLayout.pdValue c

/-- `pd_status` (R209, R210). -/
def ampPdstatOf (cfg : Cfg) (c : List Byte) : List PDStatus :=
  (fieldValues cfg.endian cfg.ampLayout.pdStatus c).map (pdStatusOf cfg.ampLayout.pdBits)

/-- `temperatures` (R211). -/
def ampTempOf (cfg : Cfg) (c : List Byte) : List Scaled :=
  (fieldValues cfg.endian cfg.ampLayout.temperatures c).map fun v => ⟨v, cfg.ampLayout.temperatures.scale⟩

/-- `AmplifierStatus` of a 64-byte payload (R200): the seven extractors together. -/
def ampDecode (cfg : Cfg) (p : List Byte) : AmplifierStatus where
  stable := ampStableOf cfg (fieldSlice cfg.ampLayout.stable p)
  systemStatus := ampSysstatOf cfg (fieldSlice cfg.ampLayout.systemStatus p)
  driverUnlock := ampDrvunlockOf cfg (fieldSlice cfg.ampLayout.driverUnlock p)
  driverCurrent := ampDrvcurOf cfg (fieldSlice cfg.ampLayout.driverCurrent p)
  pdValue := ampPdvalOf cfg (fieldSlice cfg.ampLayout.pdValue p)
  pdStatus := ampPdstatOf cfg (fieldSlice cfg.ampLayout.pdStatus p)
  temperatures := ampTempOf cfg (fieldSlice cfg.ampLayout.temperatures p)

/-- An amplifier decoder started by the host. -/
def decodeAmp (p : List Byte) (r : Result) (s : State) : StepResult :=
  decodeStatus ampPayLen p r s

/-- AMPDEC (R200). -/
def execAmpdec (p : List Byte) (s : State) : StepResult := decodeAmp p (.ampStatus (ampDecode s.cfg p)) s

/-- AMP.STABLE (R203). -/
def execAmpStable (p : List Byte) (s : State) : StepResult :=
  decodeAmp p (.flag (ampStableOf s.cfg (fieldSlice s.cfg.ampLayout.stable p))) s

/-- AMP.SYSSTAT (R204, R205). -/
def execAmpSysstat (p : List Byte) (s : State) : StepResult :=
  decodeAmp p (.systemStatus (ampSysstatOf s.cfg (fieldSlice s.cfg.ampLayout.systemStatus p))) s

/-- AMP.DRVUNLOCK (R206). -/
def execAmpDrvunlock (p : List Byte) (s : State) : StepResult :=
  decodeAmp p (.driverUnlock (ampDrvunlockOf s.cfg (fieldSlice s.cfg.ampLayout.driverUnlock p))) s

/-- AMP.DRVCUR (R207). -/
def execAmpDrvcur (p : List Byte) (s : State) : StepResult :=
  decodeAmp p (.scaledList (ampDrvcurOf s.cfg (fieldSlice s.cfg.ampLayout.driverCurrent p))) s

/-- AMP.PDVAL (R208). -/
def execAmpPdval (p : List Byte) (s : State) : StepResult :=
  decodeAmp p (.numbers (ampPdvalOf s.cfg (fieldSlice s.cfg.ampLayout.pdValue p))) s

/-- AMP.PDSTAT (R209, R210). -/
def execAmpPdstat (p : List Byte) (s : State) : StepResult :=
  decodeAmp p (.pdStatus (ampPdstatOf s.cfg (fieldSlice s.cfg.ampLayout.pdStatus p))) s

/-- AMP.TEMP (R211). -/
def execAmpTemp (p : List Byte) (s : State) : StepResult :=
  decodeAmp p (.scaledList (ampTempOf s.cfg (fieldSlice s.cfg.ampLayout.temperatures p))) s

/-- FIELD.AMP.STABLE (R203). -/
def execFieldAmpStable (c : List Byte) (s : State) : StepResult :=
  evalField .ampStable c (.flag (ampStableOf s.cfg c)) s

/-- FIELD.AMP.SYSSTAT (R204, R205). -/
def execFieldAmpSysstat (c : List Byte) (s : State) : StepResult :=
  evalField .ampSysstat c (.systemStatus (ampSysstatOf s.cfg c)) s

/-- FIELD.AMP.DRVUNLOCK (R206). -/
def execFieldAmpDrvunlock (c : List Byte) (s : State) : StepResult :=
  evalField .ampDrvunlock c (.driverUnlock (ampDrvunlockOf s.cfg c)) s

/-- FIELD.AMP.DRVCUR (R207). -/
def execFieldAmpDrvcur (c : List Byte) (s : State) : StepResult :=
  evalField .ampDrvcur c (.scaledList (ampDrvcurOf s.cfg c)) s

/-- FIELD.AMP.PDVAL (R208). -/
def execFieldAmpPdval (c : List Byte) (s : State) : StepResult :=
  evalField .ampPdval c (.numbers (ampPdvalOf s.cfg c)) s

/-- FIELD.AMP.PDSTAT (R209, R210). -/
def execFieldAmpPdstat (c : List Byte) (s : State) : StepResult :=
  evalField .ampPdstat c (.pdStatus (ampPdstatOf s.cfg c)) s

/-- FIELD.AMP.TEMP (R211). -/
def execFieldAmpTemp (c : List Byte) (s : State) : StepResult :=
  evalField .ampTemp c (.scaledList (ampTempOf s.cfg c)) s

end Sys2Proof.Machine
end

