-- ==== Sys2Proof/Machine/Checksum.lean ====
section
/-! DEFINITION. The Checksum Unit: CHK and XORCHK (40_checksum.md). -/

namespace Sys2Proof.Machine

/-- CHK (R110). -/
def execChk (s : List Byte) (st : State) : StepResult :=
  startPure st fun st => .next (st.complete (.byte (sum8 s)))

/-- XORCHK (R111). -/
def execXorchk (s : List Byte) (st : State) : StepResult :=
  startPure st fun st => .next (st.complete (.byte (xor8 s)))

end Sys2Proof.Machine
end

