-- ==== Sys2Proof/Machine/Codec.lean ====
section
/-! DEFINITION. The Message Codec as host operations: ENCODE and DECODE (41_codec.md). -/

namespace Sys2Proof.Machine

/-- ENCODE (R120): ill-formed operands are refused (R121 to R123). -/
def execEncodeOp (cls : MsgClass) (cmd addr : Byte) (payload : Payload) (s : State) : StepResult :=
  startPure s fun s =>
    match codecEncode s.cfg cls cmd addr payload with
    | .error r => .refused r
    | .ok m => .next (s.complete (.message m))

/-- DECODE (R125): a Message, which sets `LEN_WARN` when its lengths differ (R131), or one FrameError; a buffer of
impossible size is refused (R132). -/
def execDecodeOp (cls : MsgClass) (expected : Byte) (raw : List Byte) (s : State) : StepResult :=
  startPure s fun s =>
    match codecDecode s.cfg raw expected cls with
    | .malformed => .refused .malformedBuffer
    | .error e => .next (s.raise e (frameErrInfo e raw))
    | .message m => .next ({ s with lenWarn := s.lenWarn || m.warn }.complete (.message m))

end Sys2Proof.Machine
end

