-- ==== Sys2Proof/Machine/Control.lean ====
section
/-! DEFINITION. DISPATCH and the loops around the engine: DRAIN, AWAIT, SEND (43_dispatch.md), and the transmitted
FRAME word. -/

namespace Sys2Proof.Machine

/-- DISPATCH to `SLOT_SEED` (R180). -/
def execDispatchSeed (m : Message) (s : State) : StepResult := dispatchTo .seed seedPayLen m s

/-- DISPATCH to `SLOT_AMP` (R180). -/
def execDispatchAmp (m : Message) (s : State) : StepResult := dispatchTo .amp ampPayLen m s

/-- DISPATCH of an unregistered identifier (R180, R190): no side effect; the frame goes on to the operation. -/
def execDispatchNone (m : Message) (s : State) : StepResult :=
  if s.run = .none then .refused .noEngineRequest else frameDone m s

/-- DRAIN (R184): starts at the `AVAIL` query. -/
def execDrain (s : State) : StepResult := startEngine s fun s => .next (s.begin .idle .drain .avail)

/-- AWAIT (R186): `WSTATE <- WAITING`, `AWAIT_ID <- id`. -/
def execAwait (id : Byte) (s : State) : StepResult :=
  startEngine s fun s => .next ({ s with awaitId := id }.begin .waiting .await .rx)

/-- SEND (R188): ENCODE first, its refusals are SEND's; then the drain. -/
def execSend (cmd addr : Byte) (payload : Payload) (s : State) : StepResult :=
  startEngine s fun s =>
    match codecEncode s.cfg .command cmd addr payload with
    | .error r => .refused r
    | .ok m => .next (s.begin .idle (.send m.commandBytes) .avail)

/-- FRAME.CMD: SEND's frame handed to the transport, one write of the whole frame (R188). The transport's answer ends
SEND: a failed write is `TransportFatal` (R189) and hands over nothing (R40: a transaction is atomic; log entry 12).
While the transport has not answered, the step waits. -/
def execFrameCmd (addr cmd : Byte) (p : List Byte) (tr : Trailer) (s : State) : StepResult :=
  if s.ctl = .tx then
    match s.txAns with
    | [] => .next s
    | true :: rest =>
      .next ({ s with txAns := rest, tx := s.tx ++ [frameBytes s.cfg.header addr cmd p tr] }.complete .nothing)
    | false :: rest => .next ({ s with txAns := rest }.raise .transportFatal id)
  else .refused .noEngineRequest

end Sys2Proof.Machine
end

