-- ==== Sys2Proof/Machine/Receive.lean ====
section
/-! DEFINITION. The receive engine: RXSTEP.*, RECV (42_synchronizer.md), and the received FRAME words. -/

namespace Sys2Proof.Machine

/-- Phase HUNT (R151). -/
def rxHunt (b : Byte) (s : State) : StepResult :=
  if b = s.cfg.header then .next { s with buf := [b] } else .next s

/-- Phase ADDR (R152), and the false start (R153). -/
def rxAddr (b : Byte) (s : State) : StepResult :=
  let buf := s.buf ++ [b]
  if buf.length = 3 then
    if byteAt buf 1 = 0x00#8 ∧ byteAt buf 2 = s.cfg.addr then .next { s with buf := buf }
    else .next { s with buf := [], replay := [byteAt buf 1, byteAt buf 2] }
  else .next { s with buf := buf }

/-- Phase CMDLEN (R154). -/
def rxCmdLen (b : Byte) (s : State) : StepResult := .next { s with buf := s.buf ++ [b] }

/-- Phase BODY and frame completion (R155). -/
def rxBody (b : Byte) (s : State) : StepResult :=
  let buf := s.buf ++ [b]
  if buf.length = 9 + (byteAt buf 4).toNat then receiveFrame buf s else .next { s with buf := buf }

/-- RXSTEP.BYTE (R151 to R155): one byte `b` that `next()` has returned, by phase. -/
def execRxByte (b : Byte) (s : State) : StepResult :=
  if engineActive s then
    match phaseOf s.buf with
    | .hunt => rxHunt b s
    | .addr => rxAddr b s
    | .cmdLen => rxCmdLen b s
    | .body => rxBody b s
  else .refused .noEngineRequest

/-- RXSTEP.OVERRUN (R157): the request is repeated with no state change, or, outside HUNT under `hunt_only`, a fatal
error with `ERR = TransportOverrun`. The data bits are ignored (R41). -/
def execRxOverrun (_x : Byte) (s : State) : StepResult :=
  if engineActive s then
    if s.cfg.overrunScope = .all ∨ phaseOf s.buf = .hunt then .next s
    else .next (s.raise .transportOverrun id)
  else .refused .noEngineRequest

/-- RXSTEP.FATAL (R158). -/
def execRxFatal (_x : Byte) (s : State) : StepResult :=
  if engineActive s then .next (s.raise .transportFatal id) else .refused .noEngineRequest

/-- RXSTEP.TIMEOUT (R158). -/
def execRxTimeout (_x : Byte) (s : State) : StepResult :=
  if engineActive s then .next (s.raise .transportTimeout id) else .refused .noEngineRequest

/-- RECV (R160): the engine starts hunting; the steps that follow complete one frame. -/
def execRecv (s : State) : StepResult := startEngine s fun s => .next (s.begin .idle .recv .rx)

/-- FRAME.SEED_STATUS: a received seed status frame (R80, R84), handed to DECODE. -/
def execFrameSeedStatus (addr : Byte) (p : List Byte) (tr : Trailer) (s : State) : StepResult :=
  receiveFrameWord (frameBytes s.cfg.header addr seedStatusId p tr) s

/-- FRAME.AMP_STATUS: a received amplifier status frame (R80, R84), handed to DECODE. -/
def execFrameAmpStatus (addr : Byte) (p : List Byte) (tr : Trailer) (s : State) : StepResult :=
  receiveFrameWord (frameBytes s.cfg.header addr s.cfg.ampStatusId p tr) s

/-- FRAME.RET: any other received frame (R80, R84), handed to DECODE. -/
def execFrameRet (addr cmd : Byte) (p : List Byte) (tr : Trailer) (s : State) : StepResult :=
  receiveFrameWord (frameBytes s.cfg.header addr cmd p tr) s

end Sys2Proof.Machine
end

