-- ==== Sys2Proof/Machine/Seed.lean ====
section
/-! DEFINITION. The seed status decoder (45_status_seed.md): the value of each field from its container bytes under
`CFG.SEED_LAYOUT`, SEEDDEC, its twelve extractors, and the twelve FIELD rows. -/

namespace Sys2Proof.Machine

/-- A field with one element and a decimal scale (R90). -/
def scaledOf (cfg : Cfg) (f : FieldSpec) (c : List Byte) : Scaled := ⟨fieldValue cfg.endian f c, f.scale⟩

/-- The elements of the grating list (R244), from the containers one after the other (log entry 26). -/
def gratingOf (e : Endian) : List FieldSpec → List Byte → List Scaled
  | [], _ => []
  | g :: gs, c => ⟨memRead e c 0 g.width, g.scale⟩ :: gratingOf e gs (c.drop (FieldSpec.size g))

/-- `temperature_set` (R233). -/
def seedTsetOf (cfg : Cfg) (c : List Byte) : Scaled := scaledOf cfg cfg.seedLayout.temperatureSet c

/-- `temperature_act` (R234). -/
def seedTactOf (cfg : Cfg) (c : List Byte) : Scaled := scaledOf cfg cfg.seedLayout.temperatureAct c

/-- `temperature_diode` (R235). -/
def seedTdiodeOf (cfg : Cfg) (c : List Byte) : Scaled := scaledOf cfg cfg.seedLayout.temperatureDiode c

/-- `current_set` (R236). -/
def seedIsetOf (cfg : Cfg) (c : List Byte) : Nat := fieldValue cfg.endian cfg.seedLayout.currentSet c

/-- `current_act` (R237). -/
def seedIactOf (cfg : Cfg) (c : List Byte) : Nat := fieldValue cfg.endian cfg.seedLayout.currentAct c

/-- `piezo_voltage` (R238). -/
def seedPiezoOf (cfg : Cfg) (c : List Byte) : Scaled := scaledOf cfg cfg.seedLayout.piezoVoltage c

/-- `wavelength` (R239). -/
def seedWavelenOf (cfg : Cfg) (c : List Byte) : Scaled := scaledOf cfg cfg.seedLayout.wavelength c

/-- `power` (R240). -/
def seedPowerOf (cfg : Cfg) (c : List Byte) : Nat := fieldValue cfg.endian cfg.seedLayout.power c

/-- `emission` (R241). -/
def seedEmissionOf (cfg : Cfg) (c : List Byte) : Bool := (byteAt c 0 &&& cfg.seedLayout.emission.mask) != 0

/-- `run_hours` (R242). -/
def seedRunhOf (cfg : Cfg) (c : List Byte) : Nat := fieldValue cfg.endian cfg.seedLayout.runHours c

/-- `run_minutes` (R243). -/
def seedRunmOf (cfg : Cfg) (c : List Byte) : Nat := fieldValue cfg.endian cfg.seedLayout.runMinutes c

/-- `grating` (R244). -/
def seedGratingOf (cfg : Cfg) (c : List Byte) : List Scaled := gratingOf cfg.endian cfg.seedLayout.grating c

/-- The container of the emission flag: the one byte at `EM_OFF` (R241). -/
def emissionSlice (e : EmissionSpec) (p : List Byte) : List Byte := (p.drop e.offset).take 1

/-- `SeedStatus` of a 40-byte payload (R230): the twelve extractors together. -/
def seedDecode (cfg : Cfg) (p : List Byte) : SeedStatus where
  temperatureSet := seedTsetOf cfg (fieldSlice cfg.seedLayout.temperatureSet p)
  temperatureAct := seedTactOf cfg (fieldSlice cfg.seedLayout.temperatureAct p)
  temperatureDiode := seedTdiodeOf cfg (fieldSlice cfg.seedLayout.temperatureDiode p)
  currentSet := seedIsetOf cfg (fieldSlice cfg.seedLayout.currentSet p)
  currentAct := seedIactOf cfg (fieldSlice cfg.seedLayout.currentAct p)
  piezoVoltage := seedPiezoOf cfg (fieldSlice cfg.seedLayout.piezoVoltage p)
  wavelength := seedWavelenOf cfg (fieldSlice cfg.seedLayout.wavelength p)
  power := seedPowerOf cfg (fieldSlice cfg.seedLayout.power p)
  emission := seedEmissionOf cfg (emissionSlice cfg.seedLayout.emission p)
  runHours := seedRunhOf cfg (fieldSlice cfg.seedLayout.runHours p)
  runMinutes := seedRunmOf cfg (fieldSlice cfg.seedLayout.runMinutes p)
  grating := seedGratingOf cfg (gratingSlice cfg.seedLayout.grating p)

/-- A seed decoder started by the host. -/
def decodeSeed (p : List Byte) (r : Result) (s : State) : StepResult :=
  decodeStatus seedPayLen p r s

/-- SEEDDEC (R230). -/
def execSeeddec (p : List Byte) (s : State) : StepResult := decodeSeed p (.seedStatus (seedDecode s.cfg p)) s

/-- SEED.TSET (R233). -/
def execSeedTset (p : List Byte) (s : State) : StepResult :=
  decodeSeed p (.scaled (seedTsetOf s.cfg (fieldSlice s.cfg.seedLayout.temperatureSet p))) s

/-- SEED.TACT (R234). -/
def execSeedTact (p : List Byte) (s : State) : StepResult :=
  decodeSeed p (.scaled (seedTactOf s.cfg (fieldSlice s.cfg.seedLayout.temperatureAct p))) s

/-- SEED.TDIODE (R235). -/
def execSeedTdiode (p : List Byte) (s : State) : StepResult :=
  decodeSeed p (.scaled (seedTdiodeOf s.cfg (fieldSlice s.cfg.seedLayout.temperatureDiode p))) s

/-- SEED.ISET (R236). -/
def execSeedIset (p : List Byte) (s : State) : StepResult :=
  decodeSeed p (.number (seedIsetOf s.cfg (fieldSlice s.cfg.seedLayout.currentSet p))) s

/-- SEED.IACT (R237). -/
def execSeedIact (p : List Byte) (s : State) : StepResult :=
  decodeSeed p (.number (seedIactOf s.cfg (fieldSlice s.cfg.seedLayout.currentAct p))) s

/-- SEED.PIEZO (R238). -/
def execSeedPiezo (p : List Byte) (s : State) : StepResult :=
  decodeSeed p (.scaled (seedPiezoOf s.cfg (fieldSlice s.cfg.seedLayout.piezoVoltage p))) s

/-- SEED.WAVELEN (R239). -/
def execSeedWavelen (p : List Byte) (s : State) : StepResult :=
  decodeSeed p (.scaled (seedWavelenOf s.cfg (fieldSlice s.cfg.seedLayout.wavelength p))) s

/-- SEED.POWER (R240). -/
def execSeedPower (p : List Byte) (s : State) : StepResult :=
  decodeSeed p (.number (seedPowerOf s.cfg (fieldSlice s.cfg.seedLayout.power p))) s

/-- SEED.EMISSION (R241). -/
def execSeedEmission (p : List Byte) (s : State) : StepResult :=
  decodeSeed p (.flag (seedEmissionOf s.cfg (emissionSlice s.cfg.seedLayout.emission p))) s

/-- SEED.RUNH (R242). -/
def execSeedRunh (p : List Byte) (s : State) : StepResult :=
  decodeSeed p (.number (seedRunhOf s.cfg (fieldSlice s.cfg.seedLayout.runHours p))) s

/-- SEED.RUNM (R243). -/
def execSeedRunm (p : List Byte) (s : State) : StepResult :=
  decodeSeed p (.number (seedRunmOf s.cfg (fieldSlice s.cfg.seedLayout.runMinutes p))) s

/-- SEED.GRATING (R244). -/
def execSeedGrating (p : List Byte) (s : State) : StepResult :=
  decodeSeed p (.scaledList (seedGratingOf s.cfg (gratingSlice s.cfg.seedLayout.grating p))) s

/-- FIELD.SEED.TSET (R233). -/
def execFieldSeedTset (c : List Byte) (s : State) : StepResult :=
  evalField .seedTset c (.scaled (seedTsetOf s.cfg c)) s

/-- FIELD.SEED.TACT (R234). -/
def execFieldSeedTact (c : List Byte) (s : State) : StepResult :=
  evalField .seedTact c (.scaled (seedTactOf s.cfg c)) s

/-- FIELD.SEED.TDIODE (R235). -/
def execFieldSeedTdiode (c : List Byte) (s : State) : StepResult :=
  evalField .seedTdiode c (.scaled (seedTdiodeOf s.cfg c)) s

/-- FIELD.SEED.ISET (R236). -/
def execFieldSeedIset (c : List Byte) (s : State) : StepResult :=
  evalField .seedIset c (.number (seedIsetOf s.cfg c)) s

/-- FIELD.SEED.IACT (R237). -/
def execFieldSeedIact (c : List Byte) (s : State) : StepResult :=
  evalField .seedIact c (.number (seedIactOf s.cfg c)) s

/-- FIELD.SEED.PIEZO (R238). -/
def execFieldSeedPiezo (c : List Byte) (s : State) : StepResult :=
  evalField .seedPiezo c (.scaled (seedPiezoOf s.cfg c)) s

/-- FIELD.SEED.WAVELEN (R239). -/
def execFieldSeedWavelen (c : List Byte) (s : State) : StepResult :=
  evalField .seedWavelen c (.scaled (seedWavelenOf s.cfg c)) s

/-- FIELD.SEED.POWER (R240). -/
def execFieldSeedPower (c : List Byte) (s : State) : StepResult :=
  evalField .seedPower c (.number (seedPowerOf s.cfg c)) s

/-- FIELD.SEED.EMISSION (R241). -/
def execFieldSeedEmission (c : List Byte) (s : State) : StepResult :=
  evalField .seedEmission c (.flag (seedEmissionOf s.cfg c)) s

/-- FIELD.SEED.RUNH (R242). -/
def execFieldSeedRunh (c : List Byte) (s : State) : StepResult :=
  evalField .seedRunh c (.number (seedRunhOf s.cfg c)) s

/-- FIELD.SEED.RUNM (R243). -/
def execFieldSeedRunm (c : List Byte) (s : State) : StepResult :=
  evalField .seedRunm c (.number (seedRunmOf s.cfg c)) s

/-- FIELD.SEED.GRATING (R244). -/
def execFieldSeedGrating (c : List Byte) (s : State) : StepResult :=
  evalField .seedGrating c (.scaledList (seedGratingOf s.cfg c)) s

end Sys2Proof.Machine
end

