-- ==== Sys2Proof/Machine/Dispatch.lean ====
section
/-! DEFINITION. The dispatch: one arm per row of spec/opcode_table.json. -/

namespace Sys2Proof.Machine

/-- Executes one operation: one direct call of its meaning. -/
def exec (i : Instr) (s : State) : Host.Outcome State Fault Refusal :=
  match i with
  | .frameSeedStatus addr payload tr => Sys2Proof.Machine.execFrameSeedStatus addr payload tr s
  | .frameAmpStatus addr payload tr => Sys2Proof.Machine.execFrameAmpStatus addr payload tr s
  | .frameRet addr cmd payload tr => Sys2Proof.Machine.execFrameRet addr cmd payload tr s
  | .frameCmd addr cmd payload tr => Sys2Proof.Machine.execFrameCmd addr cmd payload tr s
  | .rxByte b => Sys2Proof.Machine.execRxByte b s
  | .rxOverrun x => Sys2Proof.Machine.execRxOverrun x s
  | .rxFatal x => Sys2Proof.Machine.execRxFatal x s
  | .rxTimeout x => Sys2Proof.Machine.execRxTimeout x s
  | .chk p => Sys2Proof.Machine.execChk p s
  | .xorchk p => Sys2Proof.Machine.execXorchk p s
  | .encodeOp cls cmd addr payload => Sys2Proof.Machine.execEncodeOp cls cmd addr payload s
  | .decodeOp cls expected raw => Sys2Proof.Machine.execDecodeOp cls expected raw s
  | .recv => Sys2Proof.Machine.execRecv s
  | .drain => Sys2Proof.Machine.execDrain s
  | .await id => Sys2Proof.Machine.execAwait id s
  | .send cmd addr payload => Sys2Proof.Machine.execSend cmd addr payload s
  | .ampdec p => Sys2Proof.Machine.execAmpdec p s
  | .seeddec p => Sys2Proof.Machine.execSeeddec p s
  | .ampStable p => Sys2Proof.Machine.execAmpStable p s
  | .ampSysstat p => Sys2Proof.Machine.execAmpSysstat p s
  | .ampDrvunlock p => Sys2Proof.Machine.execAmpDrvunlock p s
  | .ampDrvcur p => Sys2Proof.Machine.execAmpDrvcur p s
  | .ampPdval p => Sys2Proof.Machine.execAmpPdval p s
  | .ampPdstat p => Sys2Proof.Machine.execAmpPdstat p s
  | .ampTemp p => Sys2Proof.Machine.execAmpTemp p s
  | .seedTset p => Sys2Proof.Machine.execSeedTset p s
  | .seedTact p => Sys2Proof.Machine.execSeedTact p s
  | .seedTdiode p => Sys2Proof.Machine.execSeedTdiode p s
  | .seedIset p => Sys2Proof.Machine.execSeedIset p s
  | .seedIact p => Sys2Proof.Machine.execSeedIact p s
  | .seedPiezo p => Sys2Proof.Machine.execSeedPiezo p s
  | .seedWavelen p => Sys2Proof.Machine.execSeedWavelen p s
  | .seedPower p => Sys2Proof.Machine.execSeedPower p s
  | .seedEmission p => Sys2Proof.Machine.execSeedEmission p s
  | .seedRunh p => Sys2Proof.Machine.execSeedRunh p s
  | .seedRunm p => Sys2Proof.Machine.execSeedRunm p s
  | .seedGrating p => Sys2Proof.Machine.execSeedGrating p s
  | .fieldAmpStable c => Sys2Proof.Machine.execFieldAmpStable c s
  | .fieldAmpSysstat c => Sys2Proof.Machine.execFieldAmpSysstat c s
  | .fieldAmpDrvunlock c => Sys2Proof.Machine.execFieldAmpDrvunlock c s
  | .fieldAmpDrvcur c => Sys2Proof.Machine.execFieldAmpDrvcur c s
  | .fieldAmpPdval c => Sys2Proof.Machine.execFieldAmpPdval c s
  | .fieldAmpPdstat c => Sys2Proof.Machine.execFieldAmpPdstat c s
  | .fieldAmpTemp c => Sys2Proof.Machine.execFieldAmpTemp c s
  | .fieldSeedTset c => Sys2Proof.Machine.execFieldSeedTset c s
  | .fieldSeedTact c => Sys2Proof.Machine.execFieldSeedTact c s
  | .fieldSeedTdiode c => Sys2Proof.Machine.execFieldSeedTdiode c s
  | .fieldSeedIset c => Sys2Proof.Machine.execFieldSeedIset c s
  | .fieldSeedIact c => Sys2Proof.Machine.execFieldSeedIact c s
  | .fieldSeedPiezo c => Sys2Proof.Machine.execFieldSeedPiezo c s
  | .fieldSeedWavelen c => Sys2Proof.Machine.execFieldSeedWavelen c s
  | .fieldSeedPower c => Sys2Proof.Machine.execFieldSeedPower c s
  | .fieldSeedEmission c => Sys2Proof.Machine.execFieldSeedEmission c s
  | .fieldSeedRunh c => Sys2Proof.Machine.execFieldSeedRunh c s
  | .fieldSeedRunm c => Sys2Proof.Machine.execFieldSeedRunm c s
  | .fieldSeedGrating c => Sys2Proof.Machine.execFieldSeedGrating c s
  | .dispatchSeed m => Sys2Proof.Machine.execDispatchSeed m s
  | .dispatchAmp m => Sys2Proof.Machine.execDispatchAmp m s
  | .dispatchNone m => Sys2Proof.Machine.execDispatchNone m s

end Sys2Proof.Machine
end

