-- ==== Sys2Proof/Machine/HostPort.lean ====
section
/-! DEFINITION. The host's register accesses (10_state.md rules R27, R31 to R34; 20_memory.md rules R67, R74) and reset
(70_reset_and_hazards.md rules R300, R301). No row of the opcode table stands for them. -/

namespace Sys2Proof.Machine

/-- The code `ERR` takes (60_exceptions.md rule R260). -/
def errCode : ErrCode → Byte
  | .none => 0
  | .badHeader => 1
  | .badTerminator => 2
  | .unknownCommand => 3
  | .checksumMismatch => 4
  | .xorMismatch => 5
  | .wrongLength => 6
  | .payloadMissing => 7
  | .transportFatal => 8
  | .transportTimeout => 9
  | .transportOverrun => 10

/-- The encoding of `WSTATE` (R31 no. 9). -/
def wstateCode : WState → Nat
  | .idle => 0
  | .waiting => 1
  | .matched => 2

/-- The answer to a host read: a value on `RES`, no register changes (R66). -/
def State.answer (s : State) (r : Result) : State := { s with res := s.res ++ [.readback r] }

/-- `n` free bytes (93_implementation_defined.md U7). -/
def freeBytes (from_ n : Nat) : List Byte := (List.range n).map fun k => Config.freeByte (from_ + k)

/-- A host read of a slot's bytes: those of one frame while `BUSY = 0`, any bytes while `BUSY = 1` (R67; log entry 3). -/
def slotBytes (sel : SlotSel) (s : State) : List Byte :=
  let raw := (s.slot sel).raw
  if s.busy then freeBytes s.fresh raw.length else raw

/-- The counter after a read of a slot: the free bytes of a read while `BUSY = 1` are used up. -/
def State.afterSlotRead (s : State) (sel : SlotSel) : State :=
  { s with fresh := if s.busy then s.fresh + (s.slot sel).raw.length else s.fresh }

/-- A read that needs the slot's `VALID` (R32, R276). -/
def readSlot (sel : SlotSel) (k : List Byte → Result) (s : State) : StepResult :=
  if (s.slot sel).valid then .next ((s.afterSlotRead sel).answer (k (slotBytes sel s))) else .refused .slotInvalid

/-- A host read (R31, R34). -/
def hostRead (r : ReadSel) (s : State) : StepResult :=
  match r with
  | .header => .next (s.answer (.byte s.cfg.header))
  | .addr => .next (s.answer (.byte s.cfg.addr))
  | .term => .next (s.answer (.bytes [s.cfg.term0, s.cfg.term1]))
  | .endian => .next (s.answer (.flag (s.cfg.endian == .little)))
  | .overrunScope => .next (s.answer (.flag (s.cfg.overrunScope == .huntOnly)))
  | .ampStatusId => .next (s.answer (.byte s.cfg.ampStatusId))
  | .err => .next (s.answer (.byte (errCode s.err)))
  | .lenWarn => .next (s.answer (.flag s.lenWarn))
  | .busy => .next (s.answer (.flag s.busy))
  | .wstate => .next (s.answer (.number (wstateCode s.wstate)))
  | .awaitId => .next (s.answer (.byte s.awaitId))
  | .slotAmpValid => .next (s.answer (.flag s.slotAmp.valid))
  | .slotSeedValid => .next (s.answer (.flag s.slotSeed.valid))
  | .lastMsgValid => .next (s.answer (.flag s.lastMsgValid))
  | .lenTable cls id => .next (s.answer (.tableEntry (LenTable.get (tableOf s.cfg cls) id.toNat)))
  | .slotRaw sel i =>
    if i < (s.slot sel).raw.length then readSlot sel (fun b => .byte (byteAt b i)) s else .refused .noSuchPort
  | .slotRawAll sel => readSlot sel .bytes s
  | .lastMsg => if s.lastMsgValid then .next (s.answer (.message s.lastMsg)) else .refused .lastMsgInvalid
  | .errInfo => .next (s.answer (.errInfo s.errInfo))
  | .ampView => readSlot .amp (fun b => .ampStatus (ampDecode s.cfg b)) s
  | .seedView => readSlot .seed (fun b => .seedStatus (seedDecode s.cfg b)) s

/-- A table port write (R31). -/
def setLenTable (cfg : Cfg) (cls : MsgClass) (id : Byte) (e : LenEntry) : Cfg :=
  match cls with
  | .command => { cfg with cmdLen := LenTable.set cfg.cmdLen id.toNat e }
  | .ret => { cfg with retLen := LenTable.set cfg.retLen id.toNat e }

/-- What a configuration write does to `CFG` (R31, R74); `none` for a table length above 64 (R276). -/
def applyCfgWrite (cfg : Cfg) : CfgWrite → Option Cfg
  | .header b => some { cfg with header := b }
  | .addr b => some { cfg with addr := b, addrWritten := true }
  | .term b0 b1 => some { cfg with term0 := b0, term1 := b1 }
  | .endian e => some { cfg with endian := e }
  | .overrunScope v => some { cfg with overrunScope := v }
  | .ampStatusId b => some { cfg with ampStatusId := b, ampIdWritten := true }
  | .lenTable cls id valid len =>
    if len.toNat ≤ maxPay then some (setLenTable cfg cls id ⟨valid, len.toNat⟩) else none

/-- A configuration write by the host: refused while `BUSY = 1` (R74, R309). -/
def hostCfgWrite (w : CfgWrite) (s : State) : StepResult :=
  if s.busy then .refused .cfgWriteWhileBusy
  else
    match applyCfgWrite s.cfg w with
    | some c => .next { s with cfg := c }
    | none => .refused .tableLengthTooLarge

/-- Reset (R300): every state element at its reset value, whatever runs; the build-time layouts stay, and so does all
that the transport and the host hold (R301): an operation cut off delivers no result and no `OP_DONE`. -/
def applyReset (s : State) : State :=
  { State.reset with
    cfg := cfgAfterReset s.cfg.amp s.cfg.seed, rx := s.rx, avail := s.avail, txAns := s.txAns,
    host := s.host, turns := s.turns, tx := s.tx, res := s.res, consumed := s.consumed, fresh := s.fresh }

/-- A host transaction that starts no operation. Writing 1 to `LEN_WARN` changes nothing: only DECODE sets it (R27; log
entry 13). -/
def hostPort (a : PortAct) (s : State) : StepResult :=
  match a with
  | .cfgWrite w => hostCfgWrite w s
  | .writeLenWarn b => .next { s with lenWarn := s.lenWarn && b }
  | .read r => hostRead r s
  | .reset => .next (applyReset s)

end Sys2Proof.Machine
end

