-- ==== Sys2Proof/Machine/Fetch.lean ====
section
/-! DEFINITION. What the machine does next (00_scope.md rule R8): which agent moves, and the word it takes. PFP has no
program counter (10_state.md rule R24): the engine takes a held-back byte of `REPLAY` or else an RX event
(42_synchronizer.md rule R150), the host the next of its transactions. -/

namespace Sys2Proof.Machine

/-- What is fetched, with the state after the fetch. -/
inductive Fetch where
  /-- An operation to execute. -/
  | instr (i : Instr) (s : State)
  /-- A register access or reset. -/
  | port (a : PortAct) (s : State)
  /-- The transport's answer to the `AVAIL` query. -/
  | avail (n : Nat) (s : State)
  /-- Nothing to do yet: the machine waits (42_synchronizer.md rule R164). -/
  | wait (s : State)
  /-- A word that is no operation, or a read that is refused. -/
  | reject (r : Refusal)
  /-- The sequencing fields contradict each other. -/
  | stop (f : Fault)
  deriving Repr

/-- An operation decoded from a word, or its rejection by name. -/
def fetchWord (p : Packet) (s : State) : Fetch :=
  match decode s.cfg p with
  | .ok i => .instr i s
  | .error e => .reject (.undecodable e)

/-- The two bytes of an RX event word (R41): kind, data. -/
def rxWordBytes (w : RxWord) : List Byte := [BitVec.ofNat 8 (w.toNat / 256), BitVec.ofNat 8 (w.toNat % 256)]

/-- The container bytes of a field in a payload (R88, R95). -/
def fieldContainer (cfg : Cfg) (p : List Byte) : FieldSel → List Byte
  | .ampStable => fieldSlice cfg.ampLayout.stable p
  | .ampSysstat => fieldSlice cfg.ampLayout.systemStatus p
  | .ampDrvunlock => fieldSlice cfg.ampLayout.driverUnlock p
  | .ampDrvcur => fieldSlice cfg.ampLayout.driverCurrent p
  | .ampPdval => fieldSlice cfg.ampLayout.pdValue p
  | .ampPdstat => fieldSlice cfg.ampLayout.pdStatus p
  | .ampTemp => fieldSlice cfg.ampLayout.temperatures p
  | .seedTset => fieldSlice cfg.seedLayout.temperatureSet p
  | .seedTact => fieldSlice cfg.seedLayout.temperatureAct p
  | .seedTdiode => fieldSlice cfg.seedLayout.temperatureDiode p
  | .seedIset => fieldSlice cfg.seedLayout.currentSet p
  | .seedIact => fieldSlice cfg.seedLayout.currentAct p
  | .seedPiezo => fieldSlice cfg.seedLayout.piezoVoltage p
  | .seedWavelen => fieldSlice cfg.seedLayout.wavelength p
  | .seedPower => fieldSlice cfg.seedLayout.power p
  | .seedEmission => emissionSlice cfg.seedLayout.emission p
  | .seedRunh => fieldSlice cfg.seedLayout.runHours p
  | .seedRunm => fieldSlice cfg.seedLayout.runMinutes p
  | .seedGrating => gratingSlice cfg.seedLayout.grating p

/-- Whose status a field belongs to. -/
def fieldSlot : FieldSel → SlotSel
  | .ampStable | .ampSysstat | .ampDrvunlock | .ampDrvcur | .ampPdval | .ampPdstat | .ampTemp => .amp
  | _ => .seed

/-- A field of a decoded view (R34): its container bytes out of the slot, as a FIELD word; refused while `VALID = 0`
(R276). -/
def fetchField (sel : FieldSel) (s : State) : Fetch :=
  let slot := fieldSlot sel
  if (s.slot slot).valid then
    fetchWord ⟨.field sel, fieldContainer s.cfg (slotBytes slot s) sel⟩ (s.afterSlotRead slot)
  else .reject .slotInvalid

/-- The host's next transaction. -/
def fetchHost (s : State) : Fetch :=
  match s.host with
  | [] => .wait s
  | .op w :: rest => fetchWord ⟨.op, w⟩ { s with host := rest }
  | .viewField sel :: rest => fetchField sel { s with host := rest }
  | .port a :: rest => .port a { s with host := rest }

/-- `next()` (R150): `REPLAY` first, the transport only when it is empty. -/
def fetchByte (s : State) : Fetch :=
  match s.replay with
  | b :: rest => fetchWord ⟨.rxev, [0x00, b]⟩ { s with replay := rest }
  | [] =>
    match s.rx with
    | [] => .wait s
    | w :: rest => fetchWord ⟨.rxev, rxWordBytes w⟩ { s with rx := rest, consumed := s.consumed + 1 }

/-- SEND's frame, once the transport answers the write (R188). -/
def fetchTx (s : State) : Fetch :=
  match s.run with
  | .send f => if s.txAns = [] then .wait s else fetchWord ⟨.frame .command, f⟩ s
  | _ => .stop .brokenSequence

/-- What the running operation waits for. -/
def fetchEngine (s : State) : Fetch :=
  match s.ctl with
  | .idle => .wait s
  | .rx => fetchByte s
  | .avail =>
    match s.avail with
    | [] => .wait s
    | n :: rest => .avail n { s with avail := rest }
  | .frame raw => fetchWord ⟨.frame .ret, raw⟩ s
  | .dispatch m => fetchWord ⟨.dispatch m, [m.command]⟩ s
  | .tx => fetchTx s

/-- Which agent moves: the head of `turns`, and, when that list is empty, the engine while a host operation runs and the
host otherwise (R8; log entry 9). -/
def fetch (s : State) : Fetch :=
  match s.turns with
  | [] => if s.busy then fetchEngine s else fetchHost s
  | .host :: rest => fetchHost { s with turns := rest }
  | .engine :: rest => fetchEngine { s with turns := rest }

/-! Placing a word of the opcode table where it is fetched next. -/

/-- The seed payload with a 3-byte container at the wavelength's place. -/
def patchBytes (p : List Byte) (o : Nat) (c : List Byte) : List Byte :=
  p.take o ++ c ++ p.drop (o + c.length)

/-- Bring-up done (70_reset_and_hazards.md rule R302): `CFG.ADDR` and `AMP_STATUS_ID` count as written, with the bytes
they hold, and the command table holds the identifier of a table word's zero operands (log entry 7). -/
def Cfg.broughtUp (c : Cfg) : Cfg :=
  { c with
    addrWritten := true, ampIdWritten := true,
    cmdLen := if (LenTable.get c.cmdLen 0).valid then c.cmdLen else LenTable.set c.cmdLen 0 ⟨true, 0⟩ }

/-- An operation of the host runs and its engine holds nothing: where RX events, frames and DISPATCH keys are taken. -/
def State.running (s : State) (c : Ctl) : State :=
  { s with
    busy := true, run := .recv, ctl := c, buf := [], replay := [], turns := [], cfg := Cfg.broughtUp s.cfg }

/-- No operation runs: where the host's transactions are taken. -/
def State.waitingHost (s : State) (a : HostAct) : State :=
  { s with
    busy := false, run := .none, ctl := .idle, buf := [], replay := [], turns := [], host := a :: s.host,
    cfg := Cfg.broughtUp s.cfg }

/-- The state with a word placed where the next step takes it. -/
def State.placeWord (s : State) (w : Nat) : Packet → State
  | ⟨.frame _, raw⟩ => s.running (.frame raw)
  | ⟨.rxev, _⟩ => { s.running .rx with rx := BitVec.ofNat 10 w :: s.rx }
  | ⟨.op, b⟩ => s.waitingHost (.op b)
  | ⟨.field sel, c⟩ =>
    { s.waitingHost (.viewField sel) with
      slotSeed := ⟨true, patchBytes s.slotSeed.raw s.cfg.seedLayout.wavelength.offset c⟩ }
  | ⟨.dispatch m, _⟩ => s.running (.dispatch m)

end Sys2Proof.Machine
end

