-- ==== Sys2Proof/Machine/Step.lean ====
section
/-! DEFINITION. One step of PFP: the fetched operation is executed, or the host's register access, or the transport's
`AVAIL` answer; a machine with nothing to take waits. -/

namespace Sys2Proof.Machine

/-- One step. -/
def step (s : State) : Host.Outcome State Fault Refusal :=
  match fetch s with
  | .instr i s' => exec i s'
  | .port a s' => hostPort a s'
  | .avail n s' => availAnswer n s'
  | .wait s' => .next s'
  | .reject r => .refused r
  | .stop f => .fault f

/-- `s` with an instruction of the opcode table, its bits `w`, where `step` takes its next one (log entry 7). -/
def State.withFetchWord (s : State) (nbits w : Nat) : State :=
  match tablePacket nbits w with
  | some p => s.placeWord w p
  | none => s

end Sys2Proof.Machine
end

