-- ==== Sys2Proof/Safety.lean ====
section
/-! DEFINITION. What a safe state of PFP is: the invariant every step keeps (42_synchronizer.md rules R161, R165;
10_state.md rules R21, R24, R28, R30 to R33), and runs of several steps. -/

namespace Sys2Proof.Machine

/-- A Message as DECODE's receive path makes it (R30): at most `MAXPAY` payload bytes, class `Return`. -/
structure ReceivedMessage (m : Message) : Prop where
  cls : m.cls = .ret
  payload : ∀ p, m.payload = some p → p.length ≤ maxPay

/-- The invariant: what holds of every state a run reaches. -/
structure Inv (s : State) : Prop where
  /-- `BUSY` is 1 exactly while a host operation is active (R28). -/
  busyRun : s.busy = true ↔ s.run ≠ .none
  /-- The sequencing fields agree. -/
  ctlIdle : s.ctl = .idle ↔ s.run = .none
  /-- Outside the engine's requests nothing is held (R161, R155). -/
  heldOnlyByEngine : s.ctl ≠ .rx → s.buf = [] ∧ s.replay = []
  /-- `REPLAY` with the partial frame start never exceeds the look-ahead (R165). -/
  replayBound : s.replay = [] ∨ s.buf.length + s.replay.length ≤ 2
  /-- A frame in assembly begins with the header byte (R151). -/
  bufHeader : 1 ≤ s.buf.length → byteAt s.buf 0 = s.cfg.header
  /-- Past the look-ahead the start pattern has matched (R152). -/
  bufStart : 3 ≤ s.buf.length → byteAt s.buf 1 = 0x00#8 ∧ byteAt s.buf 2 = s.cfg.addr
  /-- `BLEN` never exceeds `8 + BUF[4]` (R24). -/
  bufShort : 5 ≤ s.buf.length → s.buf.length ≤ 8 + (byteAt s.buf 4).toNat
  /-- No complete buffer waits outside RXSTEP.BYTE (R155). -/
  noFrameHeld : ∀ raw, s.ctl ≠ .frame raw
  /-- A Message waits for DISPATCH as DECODE made it. -/
  dispatchMessage : ∀ m, s.ctl = .dispatch m → ReceivedMessage m
  /-- Only DRAIN and SEND ask `AVAIL` (R184, R188). -/
  availRun : s.ctl = .avail → s.run = .drain ∨ ∃ f, s.run = .send f
  /-- Only SEND writes `TX` (R188). -/
  txRun : s.ctl = .tx → ∃ f, s.run = .send f
  /-- AWAIT runs in `WAITING` (R186). -/
  awaitWaiting : s.run = .await → s.wstate = .waiting
  /-- SEND holds one whole command frame (R188). -/
  sendFrame : ∀ f, s.run = .send f →
    ∃ addr cmd p tr, f = frameBytes s.cfg.header addr cmd p tr ∧ p.length ≤ maxPay
  /-- Engine operations run only on a configured instance (R302). -/
  configuredRun : s.run ≠ .none → configured s = true
  /-- A slot always has its bytes (R32, R33). -/
  slotAmpSize : s.slotAmp.raw.length = ampPayLen
  slotSeedSize : s.slotSeed.raw.length = seedPayLen
  /-- `LASTMSG` holds a received Message once it is valid (R29). -/
  lastMsgReceived : s.lastMsgValid = true → ReceivedMessage s.lastMsg
  /-- The Param-Length Tables keep their canonical form and legal lengths (R31). -/
  retLenWf : LenTable.wf s.cfg.retLen = true
  cmdLenWf : LenTable.wf s.cfg.cmdLen = true

/-- `n` steps, stopping at the first fault or refusal. -/
def steps : Nat → State → StepResult
  | 0, s => .next s
  | n + 1, s =>
    match step s with
    | .next s' => steps n s'
    | .fault f => .fault f
    | .refused r => .refused r

/-- The engine asks for its next byte, holding nothing: the start of a hunt. -/
def Hunting (s : State) : Prop := s.busy = true ∧ s.ctl = .rx ∧ s.buf = [] ∧ s.replay = [] ∧ s.turns = []

/-- The RX events that deliver a byte sequence. -/
def byteEvents (b : List Byte) : List RxWord := b.map (BitVec.setWidth 10)

end Sys2Proof.Machine
end

