-- ==== Sys2Proof/Certificates/Slice0/Obligations.lean ====
section
/-! DEFINITION. The statements for the provers. Each docstring names the rule of spec/ it formalises. A host operation's
end writes `ERRINFO` with parts the spec leaves free, so the statements say "there is an `ERRINFO`" and constrain only
what a rule names (log entry 3); the statements about pure host operations leave `WSTATE` open too, and
`WstateFollowsHostOperations` says what becomes of it. -/

open Sys2Proof Sys2Proof.Machine

namespace Sys2Proof.Claims

/-- The state in which a host operation has ended with error code `e`, error record `info` and result `r` (R26, R268,
R273): `ERR`, `ERRINFO`, `BUSY`, the event `OP_DONE`, and the model's own sequencing fields and counter. -/
def ends (s : State) (e : ErrCode) (info : ErrInfo) (r : Result) : State :=
  { s with
    err := e, errInfo := info, fresh := s.fresh + 1, busy := false, run := .none, ctl := .idle,
    res := s.res ++ [.opDone e r] }

/-- Operation `i` runs to its end from `s` with result `r` and no error; only what `ends` names, and `WSTATE`, change. -/
def Completes (i : Instr) (s : State) (r : Result) : Prop :=
  ∃ w info, exec i s = .next (ends { s with wstate := w } .none info r)

/-- Operation `i` runs to its end from `s` with error `e`, no result and an error record that meets `P`. -/
def EndsInError (i : Instr) (s : State) (e : ErrCode) (P : ErrInfo → Prop) : Prop :=
  ∃ w info, P info ∧ exec i s = .next (ends { s with wstate := w } e info .nothing)

/-- A host operation: its word stands on channel `OP` (R42). -/
def isHostOp (i : Instr) : Bool := (encode resetCfg i).chan == .op

/-- Two bytes as a number in the given byte order (R61). -/
def word16 (e : Endian) (first second : Byte) : Nat :=
  match e with
  | .big => 256 * first.toNat + second.toNat
  | .little => first.toNat + 256 * second.toNat

/-- Three bytes as a number in the given byte order (R61). -/
def word24 (e : Endian) (first second third : Byte) : Nat :=
  match e with
  | .big => 65536 * first.toNat + 256 * second.toNat + third.toNat
  | .little => first.toNat + 256 * second.toNat + 65536 * third.toNat

/-- Two payload bytes from offset `o` on, as a number. -/
def word16At (e : Endian) (p : List Byte) (o : Nat) : Nat := word16 e (byteAt p o) (byteAt p (o + 1))

/-- The payload bytes a payload operand stands for with table length `lt` (R93, R122, R123): absent exactly when the
table says 0; a byte sequence as it is; an integer as the `lt` bytes that read back as it. -/
def PayloadStandsFor (e : Endian) (lt : Nat) : Payload → List Byte → Prop
  | .absent, pb => lt = 0 ∧ pb = []
  | .bytes b, pb => lt ≠ 0 ∧ b.length = lt ∧ pb = b
  | .int v, pb => lt ≠ 0 ∧ 0 ≤ v ∧ v < (256 ^ lt : Nat) ∧ pb.length = lt ∧ (assemble e pb : Int) = v

/-- What happens to a frame that has been dispatched (R192, R160, R184, R186): `LASTMSG`, then the running operation. -/
def AfterFrame (m : Message) (s t : State) : Prop :=
  let d : State := { s with lastMsg := m, lastMsgValid := true }
  match s.run with
  | .none => False
  | .recv => ∃ info, t = ends d .none info (.message m)
  | .drain => t = { d with ctl := .avail }
  | .send _ => t = { d with ctl := .avail }
  | .await =>
    if m.command = s.awaitId then ∃ info, t = ends { d with wstate := .matched } .none info (.message m)
    else t = { d with ctl := .rx }

/-- The status decoders of the host, with the payload length each wants. -/
def statusDecoders (p : List Byte) : List (Instr × Nat) :=
  [(.ampdec p, 64), (.ampStable p, 64), (.ampSysstat p, 64), (.ampDrvunlock p, 64), (.ampDrvcur p, 64),
   (.ampPdval p, 64), (.ampPdstat p, 64), (.ampTemp p, 64)]
    ++ [(.seeddec p, 40), (.seedTset p, 40), (.seedTact p, 40), (.seedTdiode p, 40), (.seedIset p, 40), (.seedIact p, 40),
        (.seedPiezo p, 40), (.seedWavelen p, 40), (.seedPower p, 40), (.seedEmission p, 40), (.seedRunh p, 40),
        (.seedRunm p, 40), (.seedGrating p, 40)]

/-- The extractor the host starts for a field, on payload `p`. -/
def extractorOf (p : List Byte) : FieldSel → Instr
  | .ampStable => .ampStable p
  | .ampSysstat => .ampSysstat p
  | .ampDrvunlock => .ampDrvunlock p
  | .ampDrvcur => .ampDrvcur p
  | .ampPdval => .ampPdval p
  | .ampPdstat => .ampPdstat p
  | .ampTemp => .ampTemp p
  | .seedTset => .seedTset p
  | .seedTact => .seedTact p
  | .seedTdiode => .seedTdiode p
  | .seedIset => .seedIset p
  | .seedIact => .seedIact p
  | .seedPiezo => .seedPiezo p
  | .seedWavelen => .seedWavelen p
  | .seedPower => .seedPower p
  | .seedEmission => .seedEmission p
  | .seedRunh => .seedRunh p
  | .seedRunm => .seedRunm p
  | .seedGrating => .seedGrating p

/-- The payload length of the status a field belongs to. -/
def payLenOf (sel : FieldSel) : Nat := match fieldSlot sel with | .amp => 64 | .seed => 40

/-- A bit of a number. -/
def bit (v k : Nat) : Bool := v / 2 ^ k % 2 == 1

/-- The length byte of a buffer. -/
def lenOf (raw : List Byte) : Nat := (byteAt raw 4).toNat

/-- What R260 says `ERRINFO` records for an error of DECODE on buffer `raw`. -/
def FrameRecord (e : ErrCode) (raw : List Byte) (f : ErrInfo) : Prop :=
  let n := raw.length
  let covered := (raw.drop 1).take (n - 5)
  match e with
  | .badHeader =>
    f.raw0 = byteAt raw 0 ∧ f.raw1 = byteAt raw 1 ∧ f.raw2 = byteAt raw 2 ∧ f.command = byteAt raw 3 ∧
      f.length = byteAt raw 4
  | .badTerminator =>
    f.command = byteAt raw 3 ∧ f.length = byteAt raw 4 ∧ f.term0 = byteAt raw (n - 2) ∧ f.term1 = byteAt raw (n - 1)
  | .unknownCommand => f.command = byteAt raw 3 ∧ f.length = byteAt raw 4
  | .checksumMismatch | .xorMismatch =>
    f.command = byteAt raw 3 ∧ f.length = byteAt raw 4 ∧ f.chkFound = byteAt raw (n - 4) ∧ f.chkCalc = sum8 covered ∧
      f.xorFound = byteAt raw (n - 3) ∧ f.xorCalc = xor8 covered
  | _ => False

end Sys2Proof.Claims

open Sys2Proof.Claims

/-! Checksum Unit. -/

/-- R110: CHK answers the sum of the bytes modulo 256 (0 for none), for a sequence of any length, and ends with `ERR`
0. -/
def Obligations.ChkAnswersSumModulo256 : Prop :=
  ∀ (p : List Byte) (s : State), s.busy = false →
    Completes (.chk p) s (.byte (BitVec.ofNat 8 (p.map BitVec.toNat).sum))

/-- R111: every bit of what XORCHK answers is the parity of that bit over the sequence (0 for none). -/
def Obligations.XorchkAnswersBitParity : Prop :=
  ∀ (p : List Byte) (s : State), s.busy = false →
    ∃ x : Byte, Completes (.xorchk p) s (.byte x) ∧
      ∀ k, k < 8 → x.getLsbD k = ((p.filter fun b => b.getLsbD k).length % 2 == 1)

/-- R112: both checks of a concatenation are those of its parts, combined by addition modulo 256 and by exclusive-or. -/
def Obligations.ChecksAreIncremental : Prop :=
  ∀ (a b : List Byte) (s : State), s.busy = false →
    ∃ ca cb xa xb : Byte,
      Completes (.chk a) s (.byte ca) ∧ Completes (.chk b) s (.byte cb) ∧
      Completes (.chk (a ++ b)) s (.byte (BitVec.ofNat 8 ((ca.toNat + cb.toNat) % 256))) ∧
      Completes (.xorchk a) s (.byte xa) ∧ Completes (.xorchk b) s (.byte xb) ∧
      Completes (.xorchk (a ++ b)) s (.byte (xa ^^^ xb))

/-- R113 (a), (c): a change of exactly one byte to another value changes both checks; exchanging two bytes changes
neither. -/
def Obligations.SingleByteChangeIsSeenExchangeIsNot : Prop :=
  (∀ (a b : List Byte) (x y : Byte), x ≠ y →
    sum8 (a ++ x :: b) ≠ sum8 (a ++ y :: b) ∧ xor8 (a ++ x :: b) ≠ xor8 (a ++ y :: b)) ∧
  ∀ (a b c : List Byte) (x y : Byte),
    sum8 (a ++ x :: b ++ y :: c) = sum8 (a ++ y :: b ++ x :: c) ∧
      xor8 (a ++ x :: b ++ y :: c) = xor8 (a ++ y :: b ++ x :: c)

/-! Message Codec. -/

/-- R120: ENCODE on operands the class's table admits answers the Message whose `command_bytes` are header, `0x00`,
address, identifier, length, payload, checksum, xor check, terminator, both checks over everything between the header
and the checksum. -/
def Obligations.EncodeBuildsTheFrame : Prop :=
  ∀ (s : State) (cls : MsgClass) (cmd addr : Byte) (payload : Payload) (lt : Nat) (pb : List Byte),
    s.busy = false → LenTable.lookup (tableOf s.cfg cls) cmd = some lt → PayloadStandsFor s.cfg.endian lt payload pb →
    ∀ body, body = [0x00#8, addr, cmd, BitVec.ofNat 8 lt] ++ pb →
      Completes (.encodeOp cls cmd addr payload) s
        (.message
          { cls := cls, command := cmd, address := addr, payload := if lt = 0 then none else some pb,
            header := s.cfg.header, term0 := s.cfg.term0, term1 := s.cfg.term1, endian := s.cfg.endian,
            commandBytes := [s.cfg.header] ++ body ++ [sum8 body, xor8 body, s.cfg.term0, s.cfg.term1],
            checksum := sum8 body, xorCheck := xor8 body, warn := false })

/-- R121, R122, R123: an identifier the table does not hold, a value or sequence that does not fit, an absent payload
where bytes are wanted and a payload where none is: ENCODE and SEND refuse each of them, and never truncate. -/
def Obligations.EncodeRefusesIllFormedOperands : Prop :=
  ∀ (s : State) (cls : MsgClass) (cmd addr : Byte), s.busy = false →
    ∀ (i : Payload → Instr), (i = .encodeOp cls cmd addr ∨
        (cls = .command ∧ i = .send cmd addr ∧ s.cfg.addrWritten = true ∧ s.cfg.ampIdWritten = true)) →
    (LenTable.lookup (tableOf s.cfg cls) cmd = none → ∀ p, exec (i p) s = .refused .unknownIdentifier) ∧
    ∀ lt, LenTable.lookup (tableOf s.cfg cls) cmd = some lt →
      (lt ≠ 0 → exec (i .absent) s = .refused .payloadRequired) ∧
      (lt = 0 → ∀ v, exec (i (.int v)) s = .refused .noPayloadExpected) ∧
      (lt = 0 → ∀ b, exec (i (.bytes b)) s = .refused .noPayloadExpected) ∧
      (lt ≠ 0 → ∀ v : Int, (v < 0 ∨ (256 ^ lt : Nat) ≤ v) → exec (i (.int v)) s = .refused .doesNotFit) ∧
      (lt ≠ 0 → ∀ b : List Byte, b.length ≠ lt → exec (i (.bytes b)) s = .refused .wrongPayloadLength)

/-- R125: DECODE on a buffer of the size its length byte says makes the five checks in the order written, reports the
first that fails with what R260 says `ERRINFO` records, and otherwise answers the Message; its payload is the first
`min(Lt, Lf)` bytes (R131), absent exactly when the table length is 0 (R130), and a length mismatch sets `LEN_WARN`. That
the payload of a mismatched frame is those bytes is a choice: R131 calls it the spec's own, U4 would leave the bytes free,
and the model follows R131 (log entry 14, DEDUCED). -/
def Obligations.DecodeChecksInOrderThenDelivers : Prop :=
  ∀ (s : State) (cls : MsgClass) (expected : Byte) (raw : List Byte) (n : Nat),
    s.busy = false → n = raw.length → 9 ≤ n → n = 9 + lenOf raw →
    let covered := (raw.drop 1).take (n - 5)
    let i : Instr := .decodeOp cls expected raw
    if byteAt raw 0 ≠ s.cfg.header ∨ byteAt raw 1 ≠ 0x00#8 ∨ byteAt raw 2 ≠ expected then
      EndsInError i s .badHeader fun f =>
        f.raw0 = byteAt raw 0 ∧ f.raw1 = byteAt raw 1 ∧ f.raw2 = byteAt raw 2 ∧ f.command = byteAt raw 3 ∧
          f.length = byteAt raw 4
    else if byteAt raw (n - 2) ≠ s.cfg.term0 ∨ byteAt raw (n - 1) ≠ s.cfg.term1 then
      EndsInError i s .badTerminator fun f =>
        f.command = byteAt raw 3 ∧ f.length = byteAt raw 4 ∧ f.term0 = byteAt raw (n - 2) ∧ f.term1 = byteAt raw (n - 1)
    else
      match LenTable.lookup (tableOf s.cfg cls) (byteAt raw 3) with
      | none => EndsInError i s .unknownCommand fun f => f.command = byteAt raw 3 ∧ f.length = byteAt raw 4
      | some lt =>
        let recorded := fun f : ErrInfo =>
          f.command = byteAt raw 3 ∧ f.length = byteAt raw 4 ∧ f.chkFound = byteAt raw (n - 4) ∧
            f.chkCalc = sum8 covered ∧ f.xorFound = byteAt raw (n - 3) ∧ f.xorCalc = xor8 covered
        if sum8 covered ≠ byteAt raw (n - 4) then EndsInError i s .checksumMismatch recorded
        else if xor8 covered ≠ byteAt raw (n - 3) then EndsInError i s .xorMismatch recorded
        else
          ∃ w info, exec i s =
            .next (ends { s with wstate := w, lenWarn := s.lenWarn || decide (lt ≠ lenOf raw) } .none info
              (.message
                { cls := cls, command := byteAt raw 3, address := byteAt raw 2,
                  payload := if lt = 0 then none else some ((raw.drop 5).take (min lt (lenOf raw))),
                  header := byteAt raw 0, term0 := byteAt raw (n - 2), term1 := byteAt raw (n - 1),
                  endian := s.cfg.endian, commandBytes := raw, checksum := byteAt raw (n - 4),
                  xorCheck := byteAt raw (n - 3), warn := decide (lt ≠ lenOf raw) }))

/-- R132: a host-invoked DECODE on a buffer shorter than 9 bytes, or whose length is not `9 + raw[4]`, is refused. -/
def Obligations.DecodeRefusesImpossibleBuffers : Prop :=
  ∀ (s : State) (cls : MsgClass) (expected : Byte) (raw : List Byte), s.busy = false →
    (raw.length < 9 ∨ raw.length ≠ 9 + lenOf raw) → exec (.decodeOp cls expected raw) s = .refused .malformedBuffer

/-- R133: DECODE of what ENCODE built, with the same class and address, succeeds and gives back the very Message, with
`warn` 0, on every instance with the same configuration and for both classes. -/
def Obligations.DecodeOfEncodeGivesTheMessageBack : Prop :=
  ∀ (s u : State) (cls : MsgClass) (cmd addr : Byte) (payload : Payload) (m : Message),
    s.busy = false → u.busy = false → u.cfg = s.cfg → LenTable.wf (tableOf s.cfg cls) = true →
    Completes (.encodeOp cls cmd addr payload) s (.message m) →
      m.cls = cls ∧ m.command = cmd ∧ m.address = addr ∧ m.warn = false ∧
        Completes (.decodeOp cls addr m.commandBytes) u (.message m)

/-- R134, R126, R129: a frame that DECODE accepts, changed at any one offset, is not accepted: a payload byte or the
checksum byte gives ChecksumMismatch, the xor byte XorMismatch, the header byte, `ZERO` or `ADDR` BadHeader, `CMD`
UnknownCommand or ChecksumMismatch, either terminator byte BadTerminator; a changed length byte no longer fits the
buffer. -/
def Obligations.TamperedFrameIsRejected : Prop :=
  ∀ (s u : State) (cls : MsgClass) (expected : Byte) (raw : List Byte) (m : Message) (i : Nat) (b : Byte),
    s.busy = false → (∃ t, exec (.decodeOp cls expected raw) s = .next t ∧
        t.res = s.res ++ [.opDone .none (.message m)]) →
    u.busy = false → u.cfg = s.cfg → b ≠ byteAt raw i →
    let d : Instr := .decodeOp cls expected (raw.set i b)
    ((5 ≤ i ∧ i ≤ 5 + lenOf raw) → EndsInError d u .checksumMismatch fun _ => True) ∧
    (i = 6 + lenOf raw → EndsInError d u .xorMismatch fun _ => True) ∧
    ((i = 0 ∨ i = 1 ∨ i = 2) → EndsInError d u .badHeader fun _ => True) ∧
    ((i = 7 + lenOf raw ∨ i = 8 + lenOf raw) → EndsInError d u .badTerminator fun _ => True) ∧
    (i = 3 → EndsInError d u (if LenTable.lookup (tableOf s.cfg cls) b = none then .unknownCommand
        else .checksumMismatch) fun _ => True) ∧
    (i = 4 → exec d u = .refused .malformedBuffer)

/-! The receive engine. -/

/-- R151: in HUNT a byte equal to `CFG.HEADER` starts a frame; any other leaves no trace. -/
def Obligations.HuntKeepsTheHeaderOnly : Prop :=
  ∀ (s : State) (b : Byte), s.ctl = .rx → s.buf = [] →
    exec (.rxByte b) s = .next (if b = s.cfg.header then { s with buf := [b] } else s)

/-- R152, R153, R154: in ADDR the first look-ahead byte is collected whatever it is; when both are in, `0x00` and
`CFG.ADDR` complete the frame start, and anything else drops the header byte alone and holds the two bytes for another
scan; after a frame start identifier and length are collected unchecked, any value of either. -/
def Obligations.FrameStartMatchesOrIsReplayed : Prop :=
  ∀ (s : State) (b : Byte), s.ctl = .rx →
    (∀ h, s.buf = [h] → exec (.rxByte b) s = .next { s with buf := [h, b] }) ∧
    (∀ h z, s.buf = [h, z] →
      exec (.rxByte b) s =
        .next (if z = 0x00#8 ∧ b = s.cfg.addr then { s with buf := [h, z, b] }
          else { s with buf := [], replay := [z, b] })) ∧
    ((s.buf.length = 3 ∨ s.buf.length = 4) → exec (.rxByte b) s = .next { s with buf := s.buf ++ [b] })

/-- R155, R260: a body byte is collected unexamined until `9 + LEN` bytes are in; the last one hands the buffer to DECODE
with `CFG.ADDR` and class `Return` in the same step, `BUF` is emptied, and a Message goes on to DISPATCH while a
FrameError ends the operation, with what R260 says of the buffer in `ERRINFO`. -/
def Obligations.BodyIsCollectedThenDecoded : Prop :=
  ∀ (s : State) (b : Byte) (raw : List Byte), s.ctl = .rx → 5 ≤ s.buf.length → raw = s.buf ++ [b] →
    (raw.length ≠ 9 + lenOf raw → exec (.rxByte b) s = .next { s with buf := raw }) ∧
    (raw.length = 9 + lenOf raw →
      (∀ m, codecDecode s.cfg raw s.cfg.addr .ret = .message m →
        exec (.rxByte b) s = .next { s with buf := [], lenWarn := s.lenWarn || m.warn, ctl := .dispatch m }) ∧
      (∀ e, codecDecode s.cfg raw s.cfg.addr .ret = .error e →
        ∃ info, FrameRecord e raw info ∧ exec (.rxByte b) s = .next (ends { s with buf := [] } e info .nothing)) ∧
      codecDecode s.cfg raw s.cfg.addr .ret ≠ .malformed)

/-- The model's choice, log entry 8 (DEDUCED): the spec gives the FRAME rows as encodings (R80, R84), and the model executes
such a word where RXSTEP.BYTE has completed a buffer (R155). The FRAME word a completed buffer is, executed, does what the
byte that completes it does. -/
def Obligations.CompletingByteExecutesTheFrameWord : Prop :=
  ∀ (s : State) (b : Byte) (raw : List Byte) (i : Instr), s.ctl = .rx → s.run ≠ .none → 5 ≤ s.buf.length →
    raw = s.buf ++ [b] → decode s.cfg ⟨.frame .ret, raw⟩ = .ok i → exec (.rxByte b) s = exec i s

/-- R80, R84, R125: a received frame with the instance's address, terminator, a known identifier and its two checks
right is decoded to a Message of its own bytes and handed to DISPATCH; nothing else changes but `LEN_WARN` under a length
mismatch. Covers FRAME.SEED_STATUS, FRAME.AMP_STATUS and FRAME.RET. Two choices stand behind it: that a received FRAME word
is executed (log entry 8, DEDUCED), and that the payload of a mismatched frame is its first `min(Lt, Lf)` bytes (log entry
14, DEDUCED). -/
def Obligations.ReceivedFrameGoesToDispatch : Prop :=
  ∀ (s : State) (cmd : Byte) (p : List Byte) (tr : Trailer) (lt : Nat) (body : List Byte) (i : Instr),
    s.run ≠ .none → p.length ≤ 255 → body = [0x00#8, s.cfg.addr, cmd, BitVec.ofNat 8 p.length] ++ p →
    tr = ⟨sum8 body, xor8 body, s.cfg.term0, s.cfg.term1⟩ → LenTable.lookup s.cfg.retLen cmd = some lt →
    ((cmd = 0xB7#8 ∧ p.length = 40 ∧ i = .frameSeedStatus s.cfg.addr p tr) ∨
      (cmd = s.cfg.ampStatusId ∧ p.length = 64 ∧ i = .frameAmpStatus s.cfg.addr p tr) ∨
      i = .frameRet s.cfg.addr cmd p tr) →
    exec i s =
      .next
        { s with
          buf := [], lenWarn := s.lenWarn || decide (lt ≠ p.length),
          ctl := .dispatch
            { cls := .ret, command := cmd, address := s.cfg.addr,
              payload := if lt = 0 then none else some (p.take (min lt p.length)), header := s.cfg.header,
              term0 := s.cfg.term0, term1 := s.cfg.term1, endian := s.cfg.endian,
              commandBytes := [s.cfg.header] ++ body ++ [tr.chk, tr.xor, tr.term0, tr.term1], checksum := tr.chk,
              xorCheck := tr.xor, warn := decide (lt ≠ p.length) } }

/-- R157: an overrun changes no state and the request is repeated, under scope `all` or in HUNT; under `hunt_only`
outside HUNT it ends the operation as a fatal error with `TransportOverrun`, the partial frame dropped. -/
def Obligations.OverrunIsRetriedOrFatal : Prop :=
  ∀ (s : State) (x : Byte), s.ctl = .rx →
    ((s.cfg.overrunScope = .all ∨ s.buf = []) → exec (.rxOverrun x) s = .next s) ∧
    (s.cfg.overrunScope = .huntOnly → s.buf ≠ [] →
      ∃ info, exec (.rxOverrun x) s = .next (ends { s with buf := [], replay := [] } .transportOverrun info .nothing))

/-- R158: FATAL and TIMEOUT drop the partial frame and the look-ahead and end the operation with `TransportFatal` and
`TransportTimeout`. -/
def Obligations.FatalAndTimeoutEndTheOperation : Prop :=
  ∀ (s : State) (x : Byte), s.ctl = .rx →
    (∃ info, exec (.rxFatal x) s = .next (ends { s with buf := [], replay := [] } .transportFatal info .nothing)) ∧
    ∃ info, exec (.rxTimeout x) s = .next (ends { s with buf := [], replay := [] } .transportTimeout info .nothing)

/-- R160, R184, R186, R188: on a configured machine with `BUSY = 0` RECV and AWAIT start by asking for bytes, DRAIN and
SEND by asking `AVAIL`; SEND, on operands the command table admits (R120 to R123), holds the frame of class `Command` it
will write. Nothing else changes. -/
def Obligations.EngineOperationsStart : Prop :=
  ∀ (s : State), s.busy = false → s.cfg.addrWritten = true → s.cfg.ampIdWritten = true →
    exec .recv s = .next { s with busy := true, wstate := .idle, run := .recv, ctl := .rx } ∧
    exec .drain s = .next { s with busy := true, wstate := .idle, run := .drain, ctl := .avail } ∧
    (∀ id, exec (.await id) s =
      .next { s with busy := true, wstate := .waiting, awaitId := id, run := .await, ctl := .rx }) ∧
    ∀ cmd addr payload lt pb, LenTable.lookup s.cfg.cmdLen cmd = some lt →
      PayloadStandsFor s.cfg.endian lt payload pb →
      ∀ body, body = [0x00#8, addr, cmd, BitVec.ofNat 8 lt] ++ pb →
        exec (.send cmd addr payload) s =
          .next
            { s with
              busy := true, wstate := .idle, ctl := .avail,
              run := .send ([s.cfg.header] ++ body ++ [sum8 body, xor8 body, s.cfg.term0, s.cfg.term1]) }

/-- R28, R302: every host operation started while `BUSY = 1` is refused, and RECV, DRAIN, AWAIT and SEND are refused
until `CFG.ADDR` and `AMP_STATUS_ID` have been written. -/
def Obligations.OperationsAreRefusedWhileBusyOrUnconfigured : Prop :=
  (∀ (s : State) (i : Instr), s.busy = true → isHostOp i = true → exec i s = .refused .busy) ∧
  ∀ (s : State) (i : Instr), s.busy = false → (s.cfg.addrWritten = false ∨ s.cfg.ampIdWritten = false) →
    (i = .recv ∨ i = .drain ∨ (∃ id, i = .await id) ∨ ∃ cmd addr p, i = .send cmd addr p) →
      exec i s = .refused .unconfigured

/-- R25: AWAIT starts in `WAITING` with its identifier; every other host operation that runs sets `WSTATE` to `IDLE`; the
awaited frame, one that no slot takes, sets it to `MATCHED` (`DispatchReplacesTheSlot` says the same of a status frame).
That the pure operations set it too is the model's choice of R25 over the words "writes no state" of R110, R120 and R200
(log entry 10, DEDUCED). -/
def Obligations.WstateFollowsHostOperations : Prop :=
  (∀ (i : Instr) (s t : State), isHostOp i = true → (∀ id, i ≠ .await id) → exec i s = .next t → t.wstate = .idle) ∧
  (∀ (id : Byte) (s t : State), exec (.await id) s = .next t → t.wstate = .waiting ∧ t.awaitId = id) ∧
  ∀ (m : Message) (s t : State), s.run = .await → m.command = s.awaitId → exec (.dispatchNone m) s = .next t →
    t.wstate = .matched

/-! DISPATCH and the loops. -/

/-- R180, R181: a Message with a status identifier and a payload of the slot's length replaces the whole slot, sets
`VALID`, signals `SLOT_UPDATED`, leaves the other slot alone, and goes on to the running operation. -/
def Obligations.DispatchReplacesTheSlot : Prop :=
  ∀ (s : State) (m : Message) (p : List Byte), s.run ≠ .none → m.payload = some p →
    (p.length = 40 → ∃ t, exec (.dispatchSeed m) s = .next t ∧
      AfterFrame m { s with slotSeed := ⟨true, p⟩, res := s.res ++ [.slotUpdated .seed] } t) ∧
    (p.length = 64 → ∃ t, exec (.dispatchAmp m) s = .next t ∧
      AfterFrame m { s with slotAmp := ⟨true, p⟩, res := s.res ++ [.slotUpdated .amp] } t)

/-- R190: a Message with any other identifier passes through with no side effect on the slots and reaches the host
through `LASTMSG`. -/
def Obligations.UnregisteredFramePassesThrough : Prop :=
  ∀ (s : State) (m : Message), s.run ≠ .none → ∃ t, exec (.dispatchNone m) s = .next t ∧ AfterFrame m s t

/-- R182, R181: a registered command with an absent payload raises PayloadMissing, which records the command; a status
payload of another length raises WrongLength, which records the length found; the slots, `LASTMSG` and `WSTATE` are left
as they were. -/
def Obligations.DispatchErrorsLeaveTheSlots : Prop :=
  ∀ (s : State) (m : Message), s.run ≠ .none →
    (∀ i, m.payload = none → (i = .dispatchSeed m ∨ i = .dispatchAmp m) →
      ∃ info, info.command = m.command ∧ exec i s = .next (ends s .payloadMissing info .nothing)) ∧
    ∀ p i, m.payload = some p → ((p.length ≠ 40 ∧ i = .dispatchSeed m) ∨ (p.length ≠ 64 ∧ i = .dispatchAmp m)) →
      ∃ info, info.lengthFound = p.length ∧ exec i s = .next (ends s .wrongLength info .nothing)

/-- R183: replaying the same valid status frame through DISPATCH leaves the slots equal to a single DISPATCH of it. -/
def Obligations.DispatchIsIdempotent : Prop :=
  ∀ (s t u v : State) (m : Message) (i : Instr), (i = .dispatchSeed m ∨ i = .dispatchAmp m ∨ i = .dispatchNone m) →
    exec i s = .next t → t.err = .none ∨ t.busy = true → u.slotAmp = t.slotAmp → u.slotSeed = t.slotSeed →
    exec i u = .next v → v.slotAmp = t.slotAmp ∧ v.slotSeed = t.slotSeed

/-- R180: the command byte chooses the DISPATCH row, the amplifier's identifier first, and the step after DECODE runs
it. -/
def Obligations.CommandByteChoosesTheDispatchRow : Prop :=
  ∀ (s : State) (m : Message), s.busy = true → s.turns = [] → s.ctl = .dispatch m →
    step s =
      if m.command = s.cfg.ampStatusId then exec (.dispatchAmp m) s
      else if m.command = 0xB7#8 then exec (.dispatchSeed m) s
      else exec (.dispatchNone m) s

/-- R184, R188: at a frame boundary DRAIN and SEND ask `AVAIL` once: a positive answer starts one more frame, 0 ends
DRAIN with no result and lets SEND write. -/
def Obligations.AvailAnswerContinuesOrEndsTheDrain : Prop :=
  ∀ (s : State) (n : Nat) (rest : List Nat), s.busy = true → s.turns = [] → s.ctl = .avail → s.avail = n :: rest →
    (0 < n → step s = .next { s with avail := rest, ctl := .rx }) ∧
    (n = 0 → s.run = .drain → ∃ info, step s = .next (ends { s with avail := rest } .none info .nothing)) ∧
    (n = 0 → ∀ f, s.run = .send f → step s = .next { s with avail := rest, ctl := .tx })

/-- R188, R189: after its drain SEND hands over the whole frame in one write and ends well; a failed write is
TransportFatal. Two choices stand behind it: that the write is the execution of the row FRAME.CMD (log entry 8, DEDUCED),
and that a failed write hands over no byte (log entry 12, DESIGN CHOICE). -/
def Obligations.SendWritesOneWholeFrame : Prop :=
  ∀ (s : State) (addr cmd : Byte) (p : List Byte) (tr : Trailer) (f : List Byte) (ok : Bool) (rest : List Bool),
    f = frameBytes s.cfg.header addr cmd p tr → p.length ≤ 64 → s.busy = true → s.turns = [] → s.ctl = .tx →
    s.run = .send f → s.txAns = ok :: rest →
    step s = exec (.frameCmd addr cmd p tr) s ∧
    (ok = true → ∃ info, exec (.frameCmd addr cmd p tr) s =
      .next (ends { s with txAns := rest, tx := s.tx ++ [f] } .none info .nothing)) ∧
    (ok = false → ∃ info, exec (.frameCmd addr cmd p tr) s =
      .next (ends { s with txAns := rest, buf := [], replay := [] } .transportFatal info .nothing))

/-! The whole machine. -/

/-- R273: an operation that ends in an error returns no result, leaves the engine empty, and changes nothing but `ERR`,
`ERRINFO`, `BUSY` and the event: `LASTMSG`, both slots, `LEN_WARN`, `AWAIT_ID`, the configuration and what was
transmitted keep their values, and so does `WSTATE` when the operation was already running. That nothing is transmitted by
SEND's failed write either is the model's choice (log entry 12, DESIGN CHOICE). -/
def Obligations.ErrorEndsTheOperationAndNothingElse : Prop :=
  ∀ (s t : State) (e : ErrCode) (r : Result), Inv s → step s = .next t → t.res = s.res ++ [.opDone e r] → e ≠ .none →
    r = .nothing ∧ t.err = e ∧ t.busy = false ∧ t.buf = [] ∧ t.replay = [] ∧ t.lastMsg = s.lastMsg ∧
      t.lastMsgValid = s.lastMsgValid ∧ t.slotAmp = s.slotAmp ∧ t.slotSeed = s.slotSeed ∧ t.lenWarn = s.lenWarn ∧
      t.awaitId = s.awaitId ∧ t.cfg = s.cfg ∧ t.tx = s.tx ∧ (s.busy = true → t.wstate = s.wstate)

/-- The invariant holds after reset. -/
def Obligations.InvariantHoldsAtReset : Prop := Inv State.reset

/-- Every step keeps the invariant, from every state that meets it. -/
def Obligations.StepKeepsInvariant : Prop := ∀ s t : State, Inv s → step s = .next t → Inv t

/-- R161, R165: after every step, whenever `BUSY = 0` nothing is held, `REPLAY` holds at most two bytes, and it is empty
once three bytes of a frame are in. -/
def Obligations.NothingHeldWhileIdle : Prop :=
  ∀ s t : State, Inv s → step s = .next t →
    (t.busy = false → t.buf = [] ∧ t.replay = []) ∧ t.replay.length ≤ 2 ∧ (3 ≤ t.buf.length → t.replay = [])

/-- No state that meets the invariant stops in a fault. -/
def Obligations.InvariantStatesNeverFault : Prop := ∀ (s : State) (f : Fault), Inv s → step s ≠ .fault f

/-- R150: the engine takes a held-back byte first, without an RX event; only when `REPLAY` is empty it takes one RX event,
by its kind; with none there it waits, unchanged. -/
def Obligations.NextByteComesFromReplayFirst : Prop :=
  ∀ (s : State), s.busy = true → s.turns = [] → s.ctl = .rx →
    (∀ b rest, s.replay = b :: rest → step s = exec (.rxByte b) { s with replay := rest }) ∧
    (s.replay = [] →
      (s.rx = [] → step s = .next s) ∧
      ∀ (kind : BitVec 2) (data : Byte) (rest : List RxWord), s.rx = (kind ++ data) :: rest →
        let s' : State := { s with rx := rest, consumed := s.consumed + 1 }
        step s =
          if kind = 0#2 then exec (.rxByte data) s'
          else if kind = 1#2 then exec (.rxOverrun data) s'
          else if kind = 2#2 then exec (.rxFatal data) s'
          else exec (.rxTimeout data) s')

/-- R40, R42, R31: an idle machine takes the host's next transaction: a word on `OP` that decodes to an operation is that
operation executed; a word that does not is refused by name; a register access or reset is carried out; the read of a
view's field is the FIELD word of the slot's bytes executed, and is refused while `VALID = 0`. With nothing to take it
waits, unchanged. That a FIELD row is the host's read of a view's field is the model's choice (log entry 25, DEDUCED). -/
def Obligations.StepRunsTheDecodedHostWord : Prop :=
  ∀ (s : State), s.busy = false → s.turns = [] →
    (s.host = [] → step s = .next s) ∧
    (∀ w rest, s.host = .op w :: rest →
      (∀ i, decode s.cfg ⟨.op, w⟩ = .ok i → step s = exec i { s with host := rest }) ∧
      ∀ e, decode s.cfg ⟨.op, w⟩ = .error e → step s = .refused (.undecodable e)) ∧
    (∀ a rest, s.host = .port a :: rest → step s = hostPort a { s with host := rest }) ∧
    ∀ sel rest, s.host = .viewField sel :: rest →
      (∀ i, (s.slot (fieldSlot sel)).valid = true →
        decode s.cfg ⟨.field sel, fieldContainer s.cfg (s.slot (fieldSlot sel)).raw sel⟩ = .ok i →
          step s = exec i { s with host := rest }) ∧
      ((s.slot (fieldSlot sel)).valid = false → step s = .refused .slotInvalid)

/-- R309: no operation changes the configuration, and a write of it while one runs is refused. -/
def Obligations.ConfigurationIsConstantWhileRunning : Prop :=
  (∀ (i : Instr) (s t : State), exec i s = .next t → t.cfg = s.cfg) ∧
  (∀ (n : Nat) (s t : State), availAnswer n s = .next t → t.cfg = s.cfg) ∧
  ∀ (w : CfgWrite) (s : State), s.busy = true → hostPort (.cfgWrite w) s = .refused .cfgWriteWhileBusy

/-- R32, R33, R24, R188: what each operation leaves alone: only the DISPATCH row of a slot writes it, only
FRAME.CMD transmits, no host operation touches `BUF` or `REPLAY`, only DISPATCH writes `LASTMSG`, only AWAIT sets
`AWAIT_ID`, none clears `LEN_WARN`; none touches the host's or the transport's queues but the answer to the TX write, and
events are only added. -/
def Obligations.EachOperationLeavesTheRestAlone : Prop :=
  ∀ (i : Instr) (s t : State), exec i s = .next t →
    ((∀ m, i ≠ .dispatchSeed m) → t.slotSeed = s.slotSeed) ∧
    ((∀ m, i ≠ .dispatchAmp m) → t.slotAmp = s.slotAmp) ∧
    ((∀ a c p tr, i ≠ .frameCmd a c p tr) → t.tx = s.tx ∧ t.txAns = s.txAns) ∧
    ((∀ m, i ≠ .dispatchSeed m ∧ i ≠ .dispatchAmp m ∧ i ≠ .dispatchNone m) →
      t.lastMsg = s.lastMsg ∧ t.lastMsgValid = s.lastMsgValid) ∧
    ((∀ id, i ≠ .await id) → t.awaitId = s.awaitId) ∧
    (isHostOp i = true → t.buf = s.buf ∧ t.replay = s.replay) ∧
    (s.lenWarn = true → t.lenWarn = true) ∧
    t.rx = s.rx ∧ t.avail = s.avail ∧ t.host = s.host ∧ t.turns = s.turns ∧ t.consumed = s.consumed ∧
    ∃ new, t.res = s.res ++ new

/-- R27: `LEN_WARN` is sticky: only a write of 0 by the host and reset clear it; a host write of 0 does clear it, in every
state, and changes nothing else. That a write of 1 changes nothing at all is the model's choice (log entry 13, DESIGN
CHOICE). -/
def Obligations.LenWarnIsSticky : Prop :=
  (∀ s t : State, step s = .next t → s.lenWarn = true → t.lenWarn = false →
    ∃ s', fetch s = .port (.writeLenWarn false) s' ∨ fetch s = .port .reset s') ∧
  (∀ s : State, hostPort (.writeLenWarn false) s = .next { s with lenWarn := false }) ∧
  ∀ s : State, hostPort (.writeLenWarn true) s = .next s

/-- R71 (a), R66: a step takes at most one RX event, the oldest, and counts it. -/
def Obligations.RxEventsAreTakenOnceInOrder : Prop :=
  ∀ s t : State, step s = .next t →
    (t.rx = s.rx ∧ t.consumed = s.consumed) ∨ ∃ w, s.rx = w :: t.rx ∧ t.consumed = s.consumed + 1

/-- R267, R261: while the engine asks for a byte, an error that is no transport error is raised only by the frame's last
byte, and the receive path never raises `BadHeader`. -/
def Obligations.FrameErrorsComeWithTheLastByte : Prop :=
  ∀ (s t : State) (e : ErrCode) (r : Result), Inv s → s.busy = true → s.turns = [] → step s = .next t →
    t.res = s.res ++ [.opDone e r] →
    e ≠ .badHeader ∧
      (s.ctl = .rx → isTransport e = false → 5 ≤ s.buf.length ∧ s.buf.length = 8 + lenOf s.buf)

/-- R162: a byte stream of garbage in which no position starts the pattern header, `0x00`, address, followed by one
frame that DECODE accepts, is hunted through: after some steps the engine holds nothing, exactly those bytes have been
taken, and the frame's Message waits for DISPATCH. -/
def Obligations.GarbageThenFrameSynchronises : Prop :=
  ∀ (s : State) (g f : List Byte) (m : Message) (after : List RxWord),
    Hunting s → s.rx = byteEvents (g ++ f) ++ after → codecDecode s.cfg f s.cfg.addr .ret = .message m →
    (∀ p, p < g.length →
      ¬(byteAt (g ++ f) p = s.cfg.header ∧ byteAt (g ++ f) (p + 1) = 0x00#8 ∧ byteAt (g ++ f) (p + 2) = s.cfg.addr)) →
    ∃ k, steps k s =
      .next { s with
        rx := after, consumed := s.consumed + (g ++ f).length, lenWarn := s.lenWarn || m.warn, ctl := .dispatch m }

/-! Configuration, reset, reads. -/

/-- R74, R31: a configuration write while `BUSY = 0` is seen in full by what follows; writing `ADDR` or `AMP_STATUS_ID`
counts as written; a table length above 64 is refused. -/
def Obligations.ConfigurationWritesAreSeen : Prop :=
  ∀ (s : State), s.busy = false →
    (∀ b, hostPort (.cfgWrite (.header b)) s = .next { s with cfg := { s.cfg with header := b } }) ∧
    (∀ b, hostPort (.cfgWrite (.addr b)) s = .next { s with cfg := { s.cfg with addr := b, addrWritten := true } }) ∧
    (∀ b0 b1, hostPort (.cfgWrite (.term b0 b1)) s = .next { s with cfg := { s.cfg with term0 := b0, term1 := b1 } }) ∧
    (∀ e, hostPort (.cfgWrite (.endian e)) s = .next { s with cfg := { s.cfg with endian := e } }) ∧
    (∀ v, hostPort (.cfgWrite (.overrunScope v)) s = .next { s with cfg := { s.cfg with overrunScope := v } }) ∧
    (∀ b, hostPort (.cfgWrite (.ampStatusId b)) s =
      .next { s with cfg := { s.cfg with ampStatusId := b, ampIdWritten := true } }) ∧
    ∀ cls id valid (len : BitVec 7), 64 < len.toNat →
      hostPort (.cfgWrite (.lenTable cls id valid len)) s = .refused .tableLengthTooLarge

/-- R31: a table port write of a legal length is read back at that entry, leaves every other entry of both tables alone,
and keeps the tables' canonical form. -/
def Obligations.TableWriteIsReadBack : Prop :=
  ∀ (s : State) (cls : MsgClass) (id : Byte) (valid : Bool) (len : BitVec 7), s.busy = false → len.toNat ≤ 64 →
    LenTable.wf s.cfg.retLen = true → LenTable.wf s.cfg.cmdLen = true →
    ∃ c, hostPort (.cfgWrite (.lenTable cls id valid len)) s = .next { s with cfg := c } ∧
      LenTable.lookup (tableOf c cls) id = (if valid then some len.toNat else none) ∧
      (∀ cls' id', (cls' ≠ cls ∨ id' ≠ id) →
        LenTable.get (tableOf c cls') id'.toNat = LenTable.get (tableOf s.cfg cls') id'.toNat) ∧
      LenTable.wf c.retLen = true ∧ LenTable.wf c.cmdLen = true

/-- R43, R31: what reset leaves, where the spec gives a value. -/
def Obligations.ResetValues : Prop :=
  State.reset.buf = [] ∧ State.reset.replay = [] ∧ State.reset.wstate = .idle ∧ State.reset.err = .none ∧
    State.reset.lenWarn = false ∧ State.reset.busy = false ∧ State.reset.lastMsgValid = false ∧
    State.reset.slotAmp.valid = false ∧ State.reset.slotSeed.valid = false ∧ State.reset.cfg.header = 0x50#8 ∧
    State.reset.cfg.term0 = 0x0D#8 ∧ State.reset.cfg.term1 = 0x0A#8 ∧ State.reset.cfg.endian = .big ∧
    State.reset.cfg.overrunScope = .all ∧ State.reset.cfg.addrWritten = false ∧ State.reset.cfg.ampIdWritten = false ∧
    (∀ id : Byte, LenTable.lookup State.reset.cfg.retLen id = if id = 0xB7#8 then some 40 else none) ∧
    ∀ id : Byte, LenTable.lookup State.reset.cfg.cmdLen id = none

/-- R300, R43, R31, R301: reset applied at any time, whatever runs, puts the registers at their reset values and does not
touch what the transport holds; an operation cut off delivers nothing. That what has been handed over and the count of RX
events are kept is the model's choice (log entry 23, DESIGN CHOICE). -/
def Obligations.ResetAppliesAtAnyTime : Prop :=
  ∀ (s : State), ∃ t, hostPort .reset s = .next t ∧ t.buf = [] ∧ t.replay = [] ∧ t.wstate = .idle ∧ t.err = .none ∧
    t.lenWarn = false ∧ t.busy = false ∧ t.lastMsgValid = false ∧ t.slotAmp.valid = false ∧ t.slotSeed.valid = false ∧
    t.cfg.header = 0x50#8 ∧ t.cfg.term0 = 0x0D#8 ∧ t.cfg.term1 = 0x0A#8 ∧ t.cfg.endian = .big ∧
    t.cfg.overrunScope = .all ∧ t.cfg.addrWritten = false ∧ t.cfg.ampIdWritten = false ∧
    t.cfg.retLen = State.reset.cfg.retLen ∧ t.cfg.cmdLen = State.reset.cfg.cmdLen ∧ t.cfg.amp = s.cfg.amp ∧
    t.cfg.seed = s.cfg.seed ∧ t.rx = s.rx ∧ t.avail = s.avail ∧ t.txAns = s.txAns ∧ t.tx = s.tx ∧ t.res = s.res ∧
    t.consumed = s.consumed

/-- R32, R34, R67, R276: a slot's bytes and its decoded view are read only while its `VALID` is 1, and `LASTMSG` only while
`LASTMSG_VALID` is 1; while `BUSY = 0` a read answers the bytes the slot holds, whole or one by one, and a view is what
AMPDEC or SEEDDEC answers on those bytes; while `BUSY = 1` a read of the bytes still answers, as many of them. A read
changes no register. An index past the end of a slot is refused (log entry 20, DESIGN CHOICE). -/
def Obligations.SlotAndMessageReadsAreGuarded : Prop :=
  ∀ (s : State),
    let answers := fun (q : ReadSel) (r : Result) =>
      hostPort (.read q) s = .next { s with res := s.res ++ [.readback r] }
    (∀ sel,
      ((s.slot sel).valid = false →
        hostPort (.read (.slotRawAll sel)) s = .refused .slotInvalid ∧
        ∀ i, i < (s.slot sel).raw.length → hostPort (.read (.slotRaw sel i)) s = .refused .slotInvalid) ∧
      ((s.slot sel).valid = true → s.busy = false →
        answers (.slotRawAll sel) (.bytes (s.slot sel).raw) ∧
        ∀ i, i < (s.slot sel).raw.length → answers (.slotRaw sel i) (.byte (byteAt (s.slot sel).raw i))) ∧
      ((s.slot sel).valid = true → s.busy = true →
        ∃ bytes n, bytes.length = (s.slot sel).raw.length ∧
          hostPort (.read (.slotRawAll sel)) s =
            .next { s with fresh := n, res := s.res ++ [.readback (.bytes bytes)] }) ∧
      ∀ i, (s.slot sel).raw.length ≤ i → hostPort (.read (.slotRaw sel i)) s = .refused .noSuchPort) ∧
    (s.slotAmp.valid = false → hostPort (.read .ampView) s = .refused .slotInvalid) ∧
    (s.slotSeed.valid = false → hostPort (.read .seedView) s = .refused .slotInvalid) ∧
    (s.slotAmp.valid = true → s.busy = false → s.slotAmp.raw.length = 64 →
      ∃ a, answers .ampView (.ampStatus a) ∧ Completes (.ampdec s.slotAmp.raw) s (.ampStatus a)) ∧
    (s.slotSeed.valid = true → s.busy = false → s.slotSeed.raw.length = 40 →
      ∃ d, answers .seedView (.seedStatus d) ∧ Completes (.seeddec s.slotSeed.raw) s (.seedStatus d)) ∧
    (s.lastMsgValid = false → hostPort (.read .lastMsg) s = .refused .lastMsgInvalid) ∧
    (s.lastMsgValid = true → answers .lastMsg (.message s.lastMsg))

/-! The status decoders. The numbers of the layouts are parameters: the statements of single fields take the layout of
R201 or R231, the completion statements every layout. -/

/-- R204, R205: AMP.SYSSTAT reads two bytes at offset 3: bits 0..3 photodiode protection, bits 4..8 temperature
protection, and the fault flag over all 16 bits. -/
def Obligations.AmpSystemStatusBitsAndFault : Prop :=
  ∀ (s : State) (p : List Byte) (v : Nat), s.busy = false → s.cfg.amp = ampLayoutDefault → p.length = 64 →
    v = word16At s.cfg.endian p 3 →
    Completes (.ampSysstat p) s
      (.systemStatus
        { pdProtection := [bit v 0, bit v 1, bit v 2, bit v 3],
          temperatureProtection := [bit v 4, bit v 5, bit v 6, bit v 7, bit v 8], fault := decide (v ≠ 0) })

/-- R203, R206: AMP.STABLE is "byte 0 nonzero"; AMP.DRVUNLOCK reads the byte at offset 4: bits 0..2 enable controls, bits
3..5 enable flags, bit 6 interlock. -/
def Obligations.AmpStableAndDriverUnlockBits : Prop :=
  ∀ (s : State) (p : List Byte) (d : Byte), s.busy = false → s.cfg.amp = ampLayoutDefault → p.length = 64 →
    d = byteAt p 4 →
    Completes (.ampStable p) s (.flag (byteAt p 0 != 0)) ∧
    Completes (.ampDrvunlock p) s
      (.driverUnlock
        { enableControl := [d.getLsbD 0, d.getLsbD 1, d.getLsbD 2],
          enableFlag := [d.getLsbD 3, d.getLsbD 4, d.getLsbD 5], interlock := d.getLsbD 6 })

/-- R207, R208, R211: AMP.DRVCUR, AMP.PDVAL and AMP.TEMP read 3, 5 and 4 unsigned 16-bit values at offsets 7, 28 and 42;
currents and temperatures carry the scale `10^-2`. -/
def Obligations.AmpCurrentsValuesAndTemperatures : Prop :=
  ∀ (s : State) (p : List Byte), s.busy = false → s.cfg.amp = ampLayoutDefault → p.length = 64 →
    let w := word16At s.cfg.endian p
    Completes (.ampDrvcur p) s (.scaledList [⟨w 7, 2⟩, ⟨w 9, 2⟩, ⟨w 11, 2⟩]) ∧
    Completes (.ampPdval p) s (.numbers [w 28, w 30, w 32, w 34, w 36]) ∧
    Completes (.ampTemp p) s (.scaledList [⟨w 42, 2⟩, ⟨w 44, 2⟩, ⟨w 46, 2⟩, ⟨w 48, 2⟩])

/-- R209, R210: AMP.PDSTAT reads the four bytes at offset 36, seven flags each from bit 0 up, and a fault flag that is set
exactly when one of bits 4, 5, 6 is. -/
def Obligations.AmpPhotodiodeStatusBits : Prop :=
  ∀ (s : State) (p : List Byte), s.busy = false → s.cfg.amp = ampLayoutDefault → p.length = 64 →
    Completes (.ampPdstat p) s
      (.pdStatus ([36, 37, 38, 39].map fun o =>
        let b := byteAt p o
        { samplingEnable := b.getLsbD 0, hardwareProtection := b.getLsbD 1, upperLimitEnabled := b.getLsbD 2,
          lowerLimitEnabled := b.getLsbD 3, hardwareProtectionEvent := b.getLsbD 4, upperLimitEvent := b.getLsbD 5,
          lowerLimitEvent := b.getLsbD 6, fault := (b &&& 0x70#8) != 0 }))

/-- R200, R230: AMPDEC and SEEDDEC answer the records made of what the extractors answer, under every layout. -/
def Obligations.DecodersAnswerTheExtractorsTogether : Prop :=
  ∀ (s : State) (p : List Byte), s.busy = false →
    (p.length = 64 → ∃ a : AmplifierStatus, Completes (.ampdec p) s (.ampStatus a) ∧
      Completes (.ampStable p) s (.flag a.stable) ∧ Completes (.ampSysstat p) s (.systemStatus a.systemStatus) ∧
      Completes (.ampDrvunlock p) s (.driverUnlock a.driverUnlock) ∧
      Completes (.ampDrvcur p) s (.scaledList a.driverCurrent) ∧ Completes (.ampPdval p) s (.numbers a.pdValue) ∧
      Completes (.ampPdstat p) s (.pdStatus a.pdStatus) ∧ Completes (.ampTemp p) s (.scaledList a.temperatures)) ∧
    (p.length = 40 → ∃ d : SeedStatus, Completes (.seeddec p) s (.seedStatus d) ∧
      Completes (.seedTset p) s (.scaled d.temperatureSet) ∧ Completes (.seedTact p) s (.scaled d.temperatureAct) ∧
      Completes (.seedTdiode p) s (.scaled d.temperatureDiode) ∧ Completes (.seedIset p) s (.number d.currentSet) ∧
      Completes (.seedIact p) s (.number d.currentAct) ∧ Completes (.seedPiezo p) s (.scaled d.piezoVoltage) ∧
      Completes (.seedWavelen p) s (.scaled d.wavelength) ∧ Completes (.seedPower p) s (.number d.power) ∧
      Completes (.seedEmission p) s (.flag d.emission) ∧ Completes (.seedRunh p) s (.number d.runHours) ∧
      Completes (.seedRunm p) s (.number d.runMinutes) ∧ Completes (.seedGrating p) s (.scaledList d.grating))

/-- R265, R64, R260: every status decoder and field extractor ends in WrongLength on a payload whose length is not
exactly the fixed one, and records the length found; on a payload of that length it ends well, so that it has no other
error. -/
def Obligations.StatusDecodersRaiseWrongLength : Prop :=
  ∀ (s : State) (p : List Byte) (i : Instr) (want : Nat), s.busy = false → (i, want) ∈ statusDecoders p →
    (p.length ≠ want → EndsInError i s .wrongLength fun f => f.lengthFound = p.length) ∧
    (p.length = want → ∃ r, Completes i s r)

/-- R233 to R237, R239, R240, R242, R243: the seed fields of the pinned layout, scaled and plain, whatever the open fields
are. -/
def Obligations.SeedPinnedFields : Prop :=
  ∀ (s : State) (p : List Byte) (pz : FieldSpec) (em : EmissionSpec) (gr : List FieldSpec), s.busy = false →
    s.cfg.seedLayout = seedLayoutWith pz em gr → p.length = 40 →
    let w := word16At s.cfg.endian p
    Completes (.seedTset p) s (.scaled ⟨w 0, 3⟩) ∧ Completes (.seedTact p) s (.scaled ⟨w 18, 3⟩) ∧
    Completes (.seedTdiode p) s (.scaled ⟨w 15, 3⟩) ∧ Completes (.seedIset p) s (.number (w 4)) ∧
    Completes (.seedIact p) s (.number (w 23)) ∧
    Completes (.seedWavelen p) s (.scaled ⟨word24 s.cfg.endian (byteAt p 31) (byteAt p 32) (byteAt p 33), 4⟩) ∧
    Completes (.seedPower p) s (.number (byteAt p 37).toNat) ∧ Completes (.seedRunh p) s (.number (w 27)) ∧
    Completes (.seedRunm p) s (.number (byteAt p 29).toNat)

/-- R238, R241, R244: the open seed fields, for every value of their parameters that an instance can have; the grating
list of the machine after reset is the default of R244, the empty one. -/
def Obligations.SeedOpenFields : Prop :=
  State.reset.cfg.seedLayout.grating = [] ∧
  ∀ (s : State) (p : List Byte), s.busy = false → p.length = 40 →
    let l := s.cfg.seedLayout
    let at_ := fun f : FieldSpec => assemble s.cfg.endian ((List.range f.width).map fun k => byteAt p (f.offset + k))
    Completes (.seedPiezo p) s (.scaled ⟨at_ l.piezoVoltage, l.piezoVoltage.scale⟩) ∧
    Completes (.seedEmission p) s (.flag ((byteAt p l.emission.offset &&& l.emission.mask) != 0)) ∧
    Completes (.seedGrating p) s (.scaledList (l.grating.map fun g => ⟨at_ g, g.scale⟩))

/-- R246: on the payload of the one seed frame the source gives, SEEDDEC answers all eleven values the source expects,
for every instance with the pinned layout read big-endian. -/
def Obligations.SeedExampleDecodes : Prop :=
  ∀ (s : State) (pz : FieldSpec) (em : EmissionSpec) (gr : List FieldSpec), s.busy = false →
    s.cfg.seedLayout = seedLayoutWith pz em gr → s.cfg.endian = .big →
    ∃ d : SeedStatus, Completes (.seeddec seedExample) s (.seedStatus d) ∧ d.temperatureAct = ⟨25087, 3⟩ ∧
      d.temperatureDiode = ⟨25033, 3⟩ ∧ d.temperatureSet = ⟨25000, 3⟩ ∧ d.currentSet = 500 ∧ d.currentAct = 22 ∧
      d.piezoVoltage.raw = 0 ∧ d.wavelength = ⟨10867321, 4⟩ ∧ d.power = 1 ∧ d.emission = false ∧ d.runHours = 850 ∧
      d.runMinutes = 11

/-- R34, R88, R95: a FIELD row evaluated on the container bytes of a payload gives what its extractor answers on that
payload, under every layout and byte order, and changes no register; every container of the layout's size is
evaluated. Covers the nineteen FIELD rows. That a FIELD row is evaluated as a host read, and that the grating's container
is its entries' containers in list order, are the model's choices (log entry 25, DEDUCED, and log entry 26, DESIGN
CHOICE); R34, R88 and R95 give the views and the patterns. -/
def Obligations.FieldRowsAgreeWithTheExtractors : Prop :=
  ∀ (s u : State) (sel : FieldSel),
    (∀ p, u.busy = false → u.cfg = s.cfg → p.length = payLenOf sel →
      ∃ r, exec (fieldInstr (fieldContainer s.cfg p sel) sel) s = .next { s with res := s.res ++ [.readback r] } ∧
        Completes (extractorOf p sel) u r) ∧
    ∀ c : List Byte, c.length = fieldSize s.cfg sel →
      ∃ r, exec (fieldInstr c sel) s = .next { s with res := s.res ++ [.readback r] }

/-! Encoding. -/

/-- R95, R41, R42, R80: the decoder gives back every well-formed operation from its word, every operand at every value,
under every configuration. -/
def Obligations.DecodeGivesEncodedOperationBack : Prop :=
  ∀ (c : Cfg) (i : Instr), i.wf c = true → decode c (encode c i) = .ok i

/-- R80, R41: no bit of a frame or of an RX event is dropped: what the decoder reads encodes to the same word; and what
it reads is well-formed. -/
def Obligations.DecodedWordsEncodeBack : Prop :=
  ∀ (c : Cfg) (w : Packet) (i : Instr), decode c w = .ok i →
    i.wf c = true ∧ ((∃ cls, w.chan = .frame cls) ∨ w.chan = .rxev ∨ (∃ sel, w.chan = .field sel) ∨ (∃ m, w.chan = .dispatch m) →
      encode c i = w)

/-- R42: every `OP` code outside the table is refused by name. -/
def Obligations.UndefinedOperationCodesAreRefused : Prop :=
  ∀ (s : State) (code : Byte) (operands : List Byte) (rest : List HostAct), s.busy = false → s.turns = [] →
    s.host = .op (code :: operands) :: rest →
    ¬(1 ≤ code.toNat ∧ code.toNat ≤ 0x0A) → ¬(0x10 ≤ code.toNat ∧ code.toNat ≤ 0x16) →
    ¬(0x20 ≤ code.toNat ∧ code.toNat ≤ 0x2B) → step s = .refused (.undecodable (.undefinedOpCode code))

/-- R41, R42, R80, R95: words written out from the encodings, of each of the five formats. The AWAIT word's operand byte is
the model's layout (log entry 6, DESIGN CHOICE: R42 gives the code alone), and the Message of the DISPATCH word is the one
the model gives a table word (log entry 7, DESIGN CHOICE: R95 gives the key alone). -/
def Obligations.SampleWordsDecode : Prop :=
  decode resetCfg ⟨.op, [0b00000101#8]⟩ = .ok .recv ∧
  decode resetCfg ⟨.op, [0b00000111#8, 0xC1#8]⟩ = .ok (.await 0xC1#8) ∧
  decode resetCfg ⟨.op, [0b00100110#8]⟩ = .ok (.seedWavelen []) ∧
  decode resetCfg ⟨.rxev, [0b01#8, 0xFF#8]⟩ = .ok (.rxOverrun 0xFF#8) ∧
  decode resetCfg ⟨.frame .ret, [0x50#8, 0x00#8, 0x64#8, 0xC1#8, 0x01#8, 0x01#8, 0x27#8, 0xA5#8, 0x0D#8, 0x0A#8]⟩ =
    .ok (.frameRet 0x64#8 0xC1#8 [0x01#8] ⟨0x27#8, 0xA5#8, 0x0D#8, 0x0A#8⟩) ∧
  decode resetCfg ⟨.field .ampDrvunlock, [0b01001011#8]⟩ = .ok (.fieldAmpDrvunlock [0x4B#8]) ∧
  decode resetCfg ⟨.dispatch (tableMessage 0xB7#8), [0b10110111#8]⟩ = .ok (.dispatchSeed (tableMessage 0xB7#8))

/-! Register reads. -/

/-- R31, R260, R66: in every state a host read of a register answers its value and changes no register: the configuration,
`ERR` as the code of R260, `ERRINFO`, `LEN_WARN`, `BUSY`, `WSTATE` as the number of R31, `AWAIT_ID`, the three valid bits,
and a table port, whose valid bit and length are the table's. The typed form of the answers is the model's choice (log
entry 20, DESIGN CHOICE), and so is the value of a register the spec gives none yet (log entry 4). -/
def Obligations.RegisterReadsAnswerTheRegisters : Prop :=
  ∀ (s : State),
    let answers := fun (q : ReadSel) (r : Result) =>
      hostPort (.read q) s = .next { s with res := s.res ++ [.readback r] }
    answers .header (.byte s.cfg.header) ∧ answers .addr (.byte s.cfg.addr) ∧
    answers .term (.bytes [s.cfg.term0, s.cfg.term1]) ∧
    (s.cfg.endian = .big → answers .endian (.flag false)) ∧ (s.cfg.endian = .little → answers .endian (.flag true)) ∧
    (s.cfg.overrunScope = .all → answers .overrunScope (.flag false)) ∧
    (s.cfg.overrunScope = .huntOnly → answers .overrunScope (.flag true)) ∧
    answers .ampStatusId (.byte s.cfg.ampStatusId) ∧
    (∀ x ∈ [(ErrCode.none, 0#8), (.badHeader, 1#8), (.badTerminator, 2#8), (.unknownCommand, 3#8),
        (.checksumMismatch, 4#8), (.xorMismatch, 5#8), (.wrongLength, 6#8), (.payloadMissing, 7#8),
        (.transportFatal, 8#8), (.transportTimeout, 9#8), (.transportOverrun, 10#8)],
      s.err = x.1 → answers .err (.byte x.2)) ∧
    answers .errInfo (.errInfo s.errInfo) ∧ answers .lenWarn (.flag s.lenWarn) ∧ answers .busy (.flag s.busy) ∧
    (∀ x ∈ [(WState.idle, 0), (.waiting, 1), (.matched, 2)], s.wstate = x.1 → answers .wstate (.number x.2)) ∧
    answers .awaitId (.byte s.awaitId) ∧ answers .slotAmpValid (.flag s.slotAmp.valid) ∧
    answers .slotSeedValid (.flag s.slotSeed.valid) ∧ answers .lastMsgValid (.flag s.lastMsgValid) ∧
    ∀ cls id, ∃ e, answers (.lenTable cls id) (.tableEntry e) ∧
      LenTable.lookup (tableOf s.cfg cls) id = if e.valid then some e.len else none
end

