-- ==== Sys2Proof/Laws/Table.lean ====
section
/-! SUPPORT. The Param-Length Tables: reading after writing, and that a write keeps the canonical form. -/

namespace Sys2Proof.Machine

theorem LenTable.get_of_wfFrom_lt {lo k : Nat} {t : LenTable} (h : LenTable.wfFrom lo t = true) (hk : k < lo) :
    LenTable.get t k = LenTable.empty := by
  induction t generalizing lo with
  | nil => rfl
  | cons p t ih =>
    obtain ⟨n, e⟩ := p
    simp only [LenTable.wfFrom, Bool.and_eq_true, decide_eq_true_eq] at h
    have hn : n ≠ k := by omega
    simp only [LenTable.get, hn, if_false]
    exact ih h.2 (by omega)

theorem LenTable.wfFrom_mono {lo lo' : Nat} {t : LenTable} (h : LenTable.wfFrom lo t = true) (hl : lo' ≤ lo) :
    LenTable.wfFrom lo' t = true := by
  cases t with
  | nil => rfl
  | cons p t =>
    obtain ⟨n, e⟩ := p
    simp only [LenTable.wfFrom, Bool.and_eq_true, decide_eq_true_eq] at h ⊢
    refine ⟨⟨⟨⟨?_, h.1.1.1.2⟩, h.1.1.2⟩, h.1.2⟩, h.2⟩
    omega

/-- Reading the entry just written gives it, and every other entry reads as before. -/
theorem LenTable.get_set {lo : Nat} {t : LenTable} (h : LenTable.wfFrom lo t = true) (k j : Nat) (e : LenEntry) :
    LenTable.get (LenTable.set t k e) j = if j = k then e else LenTable.get t j := by
  induction t generalizing lo with
  | nil =>
    by_cases he : e = LenTable.empty
    · simp [LenTable.set, he, LenTable.get]
    · by_cases hj : j = k
      · simp [LenTable.set, he, hj, LenTable.get]
      · have hj' : k ≠ j := fun h => hj h.symm
        simp [LenTable.set, he, hj, hj', LenTable.get]
  | cons p t ih =>
    obtain ⟨n, x⟩ := p
    simp only [LenTable.wfFrom, Bool.and_eq_true, decide_eq_true_eq] at h
    obtain ⟨⟨⟨⟨h1, h2⟩, h3⟩, h4⟩, h5⟩ := h
    by_cases hkn : k < n
    · have hg : LenTable.get t k = LenTable.empty := LenTable.get_of_wfFrom_lt h5 (by omega)
      have hnk : n ≠ k := by omega
      by_cases he : e = LenTable.empty
      · simp only [LenTable.set, hkn, if_true, he]
        split
        · simp_all [LenTable.get]
        · rfl
      · by_cases hj : j = k
        · simp [LenTable.set, hkn, he, LenTable.get, hj]
        · have hj' : k ≠ j := fun h => hj h.symm
          simp [LenTable.set, hkn, he, LenTable.get, hj, hj']
    · by_cases hk : k = n
      · subst hk
        have hg : LenTable.get t k = LenTable.empty := LenTable.get_of_wfFrom_lt h5 (by omega)
        by_cases he : e = LenTable.empty
        · by_cases hj : j = k
          · simp [LenTable.set, he, hj, hg]
          · have hj' : k ≠ j := fun h => hj h.symm
            simp [LenTable.set, he, hj, hj', LenTable.get]
        · by_cases hj : j = k
          · simp [LenTable.set, he, hj, LenTable.get]
          · have hj' : k ≠ j := fun h => hj h.symm
            simp [LenTable.set, he, hj, hj', LenTable.get]
      · simp only [LenTable.set, hkn, hk, if_false, LenTable.get, ih h5]
        by_cases hj : n = j
        · have : j ≠ k := by omega
          simp [hj, this]
        · simp [hj]

/-- A write of a legal entry keeps the canonical form. -/
theorem LenTable.set_wfFrom {lo k : Nat} {t : LenTable} {e : LenEntry} (h : LenTable.wfFrom lo t = true) (hl : lo ≤ k)
    (hk : k < 256) (he : e.len ≤ maxPay) : LenTable.wfFrom lo (LenTable.set t k e) = true := by
  induction t generalizing lo with
  | nil =>
    unfold LenTable.set
    split
    · rfl
    · rename_i hne
      simp [LenTable.wfFrom, hl, hk, hne, he]
  | cons p t ih =>
    obtain ⟨n, x⟩ := p
    have h' := h
    simp only [LenTable.wfFrom, Bool.and_eq_true, decide_eq_true_eq] at h
    obtain ⟨⟨⟨⟨h1, h2⟩, h3⟩, h4⟩, h5⟩ := h
    unfold LenTable.set
    split
    · split
      · exact h'
      · rename_i hkn hne
        simp [LenTable.wfFrom, hl, hk, hne, he, h2, h3, h4, h5]
        omega
    · split
      · split
        · exact LenTable.wfFrom_mono h5 (by omega)
        · rename_i hk' hne
          subst hk'
          simp [LenTable.wfFrom, hl, hk, hne, he, h5]
      · have := ih h5 (by omega)
        simp [LenTable.wfFrom, h1, h2, h3, h4, this]

theorem LenTable.set_wf {k : Nat} {t : LenTable} {e : LenEntry} (h : LenTable.wf t = true) (hk : k < 256)
    (he : e.len ≤ maxPay) : LenTable.wf (LenTable.set t k e) = true := LenTable.set_wfFrom h (Nat.zero_le _) hk he

/-- A table in canonical form gives lengths up to `MAXPAY`. -/
theorem LenTable.get_len_le {lo : Nat} {t : LenTable} (h : LenTable.wfFrom lo t = true) (k : Nat) :
    (LenTable.get t k).len ≤ maxPay := by
  induction t generalizing lo with
  | nil => simp [LenTable.get, LenTable.empty]
  | cons p t ih =>
    obtain ⟨n, e⟩ := p
    simp only [LenTable.wfFrom, Bool.and_eq_true, decide_eq_true_eq] at h
    unfold LenTable.get
    split
    · exact h.1.2
    · exact ih h.2

theorem LenTable.lookup_le {t : LenTable} (h : LenTable.wf t = true) {c : Byte} {n : Nat}
    (hl : LenTable.lookup t c = some n) : n ≤ maxPay := by
  simp only [LenTable.lookup] at hl
  split at hl
  · cases hl; exact LenTable.get_len_le h _
  · cases hl

/-- The reset table of return identifiers holds exactly `0xB7` with length 40. -/
theorem resetCfg_retLen_wf : LenTable.wf resetCfg.retLen = true := by decide

end Sys2Proof.Machine
end

