-- ==== Sys2Proof/Laws/Codec.lean ====
section
/-! SUPPORT. The check bytes, the integer representations and the codec's functions. -/

namespace Sys2Proof.Machine

/-! The checks. -/

theorem sum8_append (a b : List Byte) : sum8 (a ++ b) = sum8 a + sum8 b := by
  induction a with
  | nil => simp [sum8]
  | cons x a ih => simp [sum8, ih, BitVec.add_assoc]

theorem xor8_append (a b : List Byte) : xor8 (a ++ b) = xor8 a ^^^ xor8 b := by
  induction a with
  | nil => simp [xor8]
  | cons x a ih => simp [xor8, ih, BitVec.xor_assoc]

/-! Integers and their bytes. -/

theorem assembleBig_append (a b : List Byte) :
    assembleBig (a ++ b) = assembleBig a * 256 ^ b.length + assembleBig b := by
  induction a with
  | nil => simp [assembleBig]
  | cons x a ih => simp [assembleBig, ih, Nat.pow_add, Nat.add_mul, Nat.mul_assoc, Nat.add_assoc]

theorem assembleBig_eq_reverse (s : List Byte) : assembleBig s = assembleLittle s.reverse := by
  induction s using List.reverseRecOn with
  | nil => rfl
  | append_singleton s x ih => simp [assembleBig_append, assembleBig, assembleLittle, ← ih]; omega

/-- Sequences of one length that stand for the same number are equal. -/
theorem assembleLittle_inj {a b : List Byte} (hl : a.length = b.length) (h : assembleLittle a = assembleLittle b) :
    a = b := by
  induction a generalizing b with
  | nil => exact (List.eq_nil_of_length_eq_zero hl.symm).symm
  | cons x a ih =>
    cases b with
    | nil => cases hl
    | cons y b =>
      simp only [assembleLittle] at h
      have hx := x.isLt
      have hy := y.isLt
      have h1 : x.toNat = y.toNat := by omega
      have h2 : assembleLittle a = assembleLittle b := by omega
      rw [BitVec.eq_of_toNat_eq h1, ih (by simpa using hl) h2]

theorem assemble_inj {e : Endian} {a b : List Byte} (hl : a.length = b.length) (h : assemble e a = assemble e b) :
    a = b := by
  cases e with
  | big =>
    simp only [assemble, assembleBig_eq_reverse] at h
    exact List.reverse_injective (assembleLittle_inj (by simpa using hl) h)
  | little => exact assembleLittle_inj hl h

theorem payloadOfInt_length (e : Endian) (v n : Nat) : (payloadOfInt e v n).length = n := by
  cases e <;> simp [payloadOfInt]

theorem assembleLittle_payload (v n : Nat) (h : v < 256 ^ n) : assembleLittle (payloadOfInt .little v n) = v := by
  induction n generalizing v with
  | zero => simp_all [payloadOfInt, assembleLittle]
  | succ n ih =>
    have hs : payloadOfInt .little v (n + 1) = BitVec.ofNat 8 v :: payloadOfInt .little (v / 256) n := by
      simp only [payloadOfInt, List.range_succ_eq_map, List.map_cons, List.map_map]
      congr 1
      apply List.map_congr_left
      intro j _
      simp only [Function.comp, Nat.shiftRight_eq_div_pow, Nat.div_div_eq_div_mul]
      congr 2
      rw [show 8 * j.succ = 8 + 8 * j by omega, Nat.pow_add]
    have hv : v / 256 < 256 ^ n := by
      rw [Nat.pow_succ] at h
      omega
    rw [hs, assembleLittle, ih _ hv, BitVec.toNat_ofNat]
    omega

theorem payloadOfInt_reverse (v n : Nat) : (payloadOfInt .big v n).reverse = payloadOfInt .little v n := by
  apply List.ext_getElem
  · simp [payloadOfInt]
  · intro i h1 h2
    simp only [payloadOfInt, List.length_reverse, List.length_map, List.length_range] at h1
    simp only [payloadOfInt, List.getElem_reverse, List.getElem_map, List.getElem_range, List.length_map,
      List.length_range]
    congr 3
    omega

/-- The representation of an integer that fits stands for it. -/
theorem assemble_payloadOfInt (e : Endian) (v n : Nat) (h : v < 256 ^ n) : assemble e (payloadOfInt e v n) = v := by
  cases e with
  | big => simp only [assemble, assembleBig_eq_reverse, payloadOfInt_reverse]; exact assembleLittle_payload v n h
  | little => exact assembleLittle_payload v n h

/-! ENCODE and DECODE. -/

/-- The operands ENCODE takes give exactly as many bytes as the table says. -/
theorem encodePayloadBytes_length {e : Endian} {lt : Nat} {p : Payload} {pb : List Byte}
    (h : encodePayloadBytes e lt p = .ok pb) : pb.length = lt := by
  cases p with
  | absent =>
    simp only [encodePayloadBytes] at h
    split at h <;> simp_all
  | int v =>
    simp only [encodePayloadBytes] at h
    split at h
    · cases h
    · split at h <;> simp_all
      rw [← h, payloadOfInt_length]
  | bytes b =>
    simp only [encodePayloadBytes] at h
    split at h
    · cases h
    · split at h <;> simp_all

/-- The Message of a frame with payload `pb`, as ENCODE makes it. -/
def encodedMessage (cfg : Cfg) (cls : MsgClass) (cmd addr : Byte) (pb : List Byte) : Message :=
  let body : List Byte := [0x00, addr, cmd, BitVec.ofNat 8 pb.length] ++ pb
  { cls := cls, command := cmd, address := addr, payload := if pb.length = 0 then none else some pb,
    header := cfg.header, term0 := cfg.term0, term1 := cfg.term1, endian := cfg.endian,
    commandBytes := [cfg.header] ++ body ++ [sum8 body, xor8 body] ++ [cfg.term0, cfg.term1],
    checksum := sum8 body, xorCheck := xor8 body, warn := false }

/-- All that ENCODE can answer. -/
theorem codecEncode_cases {cfg : Cfg} {cls : MsgClass} {cmd addr : Byte} {p : Payload} {m : Message}
    (h : codecEncode cfg cls cmd addr p = .ok m) :
    ∃ lt pb, LenTable.lookup (tableOf cfg cls) cmd = some lt ∧ encodePayloadBytes cfg.endian lt p = .ok pb ∧
      pb.length = lt ∧ m = encodedMessage cfg cls cmd addr pb := by
  simp only [codecEncode] at h
  split at h
  · cases h
  · rename_i lt hlt
    split at h
    · cases h
    · rename_i pb hpb
      have hl := encodePayloadBytes_length hpb
      refine ⟨lt, pb, hlt, hpb, hl, ?_⟩
      cases h
      simp only [encodedMessage, hl]

/-- The frame ENCODE makes, as the bytes of a FRAME row. -/
theorem encodedMessage_commandBytes (cfg : Cfg) (cls : MsgClass) (cmd addr : Byte) (pb : List Byte) :
    (encodedMessage cfg cls cmd addr pb).commandBytes =
      frameBytes cfg.header addr cmd pb
        ⟨(encodedMessage cfg cls cmd addr pb).checksum, (encodedMessage cfg cls cmd addr pb).xorCheck, cfg.term0,
          cfg.term1⟩ := by
  simp [encodedMessage, frameBytes]

/-! Reading the bytes of a frame. -/

theorem frameBytes_length (h a c : Byte) (p : List Byte) (tr : Trailer) : (frameBytes h a c p tr).length = 9 + p.length := by
  simp [frameBytes]; omega

theorem byteAt_frameBytes_0 (h a c : Byte) (p : List Byte) (tr : Trailer) : byteAt (frameBytes h a c p tr) 0 = h := rfl
theorem byteAt_frameBytes_1 (h a c : Byte) (p : List Byte) (tr : Trailer) : byteAt (frameBytes h a c p tr) 1 = 0#8 := rfl
theorem byteAt_frameBytes_2 (h a c : Byte) (p : List Byte) (tr : Trailer) : byteAt (frameBytes h a c p tr) 2 = a := rfl
theorem byteAt_frameBytes_3 (h a c : Byte) (p : List Byte) (tr : Trailer) : byteAt (frameBytes h a c p tr) 3 = c := rfl
theorem byteAt_frameBytes_4 (h a c : Byte) (p : List Byte) (tr : Trailer) :
    byteAt (frameBytes h a c p tr) 4 = BitVec.ofNat 8 p.length := rfl

theorem byteAt_append_right (a b : List Byte) (i : Nat) : byteAt (a ++ b) (a.length + i) = byteAt b i := by
  simp [byteAt, List.getD_eq_getElem?_getD, List.getElem?_append]

theorem byteAt_append_left {a : List Byte} (b : List Byte) {i : Nat} (h : i < a.length) :
    byteAt (a ++ b) i = byteAt a i := by
  simp [byteAt, List.getD_eq_getElem?_getD, List.getElem?_append, h]

theorem byteAt_frameBytes_trailer (h a c : Byte) (p : List Byte) (tr : Trailer) (i : Nat) :
    byteAt (frameBytes h a c p tr) (5 + p.length + i) = byteAt [tr.chk, tr.xor, tr.term0, tr.term1] i := by
  have : 5 + p.length = ([h, 0x00, a, c, BitVec.ofNat 8 p.length] ++ p).length := by simp; omega
  rw [this, frameBytes, byteAt_append_right]

/-- The trailer, counted from the frame's end as DECODE counts it. -/
theorem byteAt_frameBytes_chk (h a c : Byte) (p : List Byte) (tr : Trailer) :
    byteAt (frameBytes h a c p tr) (9 + p.length - 4) = tr.chk := by
  rw [show 9 + p.length - 4 = 5 + p.length + 0 by omega, byteAt_frameBytes_trailer]; rfl
theorem byteAt_frameBytes_xor (h a c : Byte) (p : List Byte) (tr : Trailer) :
    byteAt (frameBytes h a c p tr) (9 + p.length - 3) = tr.xor := by
  rw [show 9 + p.length - 3 = 5 + p.length + 1 by omega, byteAt_frameBytes_trailer]; rfl
theorem byteAt_frameBytes_term0 (h a c : Byte) (p : List Byte) (tr : Trailer) :
    byteAt (frameBytes h a c p tr) (9 + p.length - 2) = tr.term0 := by
  rw [show 9 + p.length - 2 = 5 + p.length + 2 by omega, byteAt_frameBytes_trailer]; rfl
theorem byteAt_frameBytes_term1 (h a c : Byte) (p : List Byte) (tr : Trailer) :
    byteAt (frameBytes h a c p tr) (9 + p.length - 1) = tr.term1 := by
  rw [show 9 + p.length - 1 = 5 + p.length + 3 by omega, byteAt_frameBytes_trailer]; rfl

theorem coveredBytes_frameBytes (h a c : Byte) (p : List Byte) (tr : Trailer) :
    coveredBytes (frameBytes h a c p tr) = [0x00, a, c, BitVec.ofNat 8 p.length] ++ p := by
  rw [coveredBytes, frameBytes_length]
  have : 9 + p.length - 5 = ([0x00, a, c, BitVec.ofNat 8 p.length] ++ p : List Byte).length := by simp; omega
  rw [this]
  simp only [frameBytes, List.cons_append, List.nil_append, List.drop_succ_cons, List.drop_zero]
  simp

/-- The payload region of a frame. -/
theorem payload_frameBytes (h a c : Byte) (p : List Byte) (tr : Trailer) (n : Nat) (hn : n ≤ p.length) :
    ((frameBytes h a c p tr).drop 5).take n = p.take n := by
  simp [frameBytes, List.take_append, Nat.sub_eq_zero_of_le hn]

/-- A frame whose fields and checks are right is decoded to its own Message. -/
theorem codecDecode_frame {cfg : Cfg} {cls : MsgClass} {addr cmd : Byte} {p : List Byte} {tr : Trailer} {lt : Nat}
    (hp : p.length ≤ 255) (hl : LenTable.lookup (tableOf cfg cls) cmd = some lt)
    (htr : tr = ⟨sum8 ([0x00, addr, cmd, BitVec.ofNat 8 p.length] ++ p),
      xor8 ([0x00, addr, cmd, BitVec.ofNat 8 p.length] ++ p), cfg.term0, cfg.term1⟩) :
    codecDecode cfg (frameBytes cfg.header addr cmd p tr) addr cls =
      .message
        { cls := cls, command := cmd, address := addr,
          payload := if lt = 0 then none else some (p.take (min lt p.length)), header := cfg.header, term0 := cfg.term0,
          term1 := cfg.term1, endian := cfg.endian, commandBytes := frameBytes cfg.header addr cmd p tr,
          checksum := tr.chk, xorCheck := tr.xor, warn := lt != p.length } := by
  have h4 : (BitVec.ofNat 8 p.length).toNat = p.length := by rw [BitVec.toNat_ofNat]; omega
  have hc : sum8 (coveredBytes (frameBytes cfg.header addr cmd p tr)) = tr.chk := by
    rw [coveredBytes_frameBytes, htr]
  have hx : xor8 (coveredBytes (frameBytes cfg.header addr cmd p tr)) = tr.xor := by
    rw [coveredBytes_frameBytes, htr]
  have ht0 : tr.term0 = cfg.term0 := by rw [htr]
  have ht1 : tr.term1 = cfg.term1 := by rw [htr]
  simp only [codecDecode, decodedMessage, frameBytes_length, byteAt_frameBytes_0, byteAt_frameBytes_1,
    byteAt_frameBytes_2, byteAt_frameBytes_3, byteAt_frameBytes_4, h4, byteAt_frameBytes_chk, byteAt_frameBytes_xor,
    byteAt_frameBytes_term0, byteAt_frameBytes_term1, ht0, ht1, hl, hc, hx]
  simp [payload_frameBytes]

/-- A buffer of the size its length byte says, taken apart. -/
theorem exists_frame_of_length {raw : List Byte} (h : raw.length = 9 + (byteAt raw 4).toNat) :
    ∃ (hd z a c : Byte) (p : List Byte) (tr : Trailer), p.length ≤ 255 ∧ p.length = (byteAt raw 4).toNat ∧
      raw = [hd, z, a, c, BitVec.ofNat 8 p.length] ++ p ++ [tr.chk, tr.xor, tr.term0, tr.term1] := by
  match raw, h with
  | hd :: z :: a :: c :: l :: rest, h =>
    have hl : byteAt (hd :: z :: a :: c :: l :: rest) 4 = l := rfl
    rw [hl] at h ⊢
    simp only [List.length_cons] at h
    have hr : (rest.drop l.toNat).length = 4 := by rw [List.length_drop]; omega
    have hp : (rest.take l.toNat).length = l.toNat := by rw [List.length_take]; omega
    match hd4 : rest.drop l.toNat, hr with
    | [x0, x1, x2, x3], _ =>
      refine ⟨hd, z, a, c, rest.take l.toNat, ⟨x0, x1, x2, x3⟩, ?_, hp, ?_⟩
      · have := l.isLt; omega
      · have hsplit := List.take_append_drop l.toNat rest
        rw [hd4] at hsplit
        simp [hp, hsplit]

/-- All that a successful DECODE says of its buffer (R125): it is a frame with the header, address, terminator and checks
right, whose identifier the table holds, and the Message is the frame's own. -/
theorem codecDecode_message {cfg : Cfg} {raw : List Byte} {addr : Byte} {cls : MsgClass} {m : Message}
    (h : codecDecode cfg raw addr cls = .message m) :
    ∃ (cmd : Byte) (p : List Byte) (tr : Trailer) (lt : Nat), p.length ≤ 255 ∧ raw = frameBytes cfg.header addr cmd p tr ∧
      LenTable.lookup (tableOf cfg cls) cmd = some lt ∧
      tr = ⟨sum8 ([0x00, addr, cmd, BitVec.ofNat 8 p.length] ++ p),
        xor8 ([0x00, addr, cmd, BitVec.ofNat 8 p.length] ++ p), cfg.term0, cfg.term1⟩ ∧
      m = { cls := cls, command := cmd, address := addr,
            payload := if lt = 0 then none else some (p.take (min lt p.length)), header := cfg.header,
            term0 := cfg.term0, term1 := cfg.term1, endian := cfg.endian, commandBytes := raw, checksum := tr.chk,
            xorCheck := tr.xor, warn := lt != p.length } := by
  have h0 := h
  unfold codecDecode at h
  simp only at h
  split at h
  · cases h
  rename_i hn
  split at h
  · cases h
  rename_i hh
  split at h
  · cases h
  rename_i ht
  split at h
  · cases h
  rename_i lt hlt
  split at h
  · cases h
  rename_i hc
  split at h
  · cases h
  rename_i hx
  clear h
  obtain ⟨hd, z, a, c, p, tr, hp, hpl, hraw⟩ := exists_frame_of_length (raw := raw) (by omega)
  have hz : z = 0#8 := by
    have : byteAt raw 1 = z := by rw [hraw]; rfl
    by_contra hne; exact hh (Or.inr (Or.inl (by rw [this]; exact hne)))
  have hhd : hd = cfg.header := by
    have : byteAt raw 0 = hd := by rw [hraw]; rfl
    by_contra hne; exact hh (Or.inl (by rw [this]; exact hne))
  have ha : a = addr := by
    have : byteAt raw 2 = a := by rw [hraw]; rfl
    by_contra hne; exact hh (Or.inr (Or.inr (by rw [this]; exact hne)))
  subst hz hhd ha
  have hf : raw = frameBytes cfg.header a c p tr := hraw
  clear hraw hh
  subst hf
  simp only [frameBytes_length, byteAt_frameBytes_term0, byteAt_frameBytes_term1, not_or, not_not] at ht
  simp only [frameBytes_length, byteAt_frameBytes_chk, coveredBytes_frameBytes, not_not] at hc
  simp only [frameBytes_length, byteAt_frameBytes_xor, coveredBytes_frameBytes, not_not] at hx
  rw [byteAt_frameBytes_3] at hlt
  have htr : tr = ⟨sum8 ([0x00, a, c, BitVec.ofNat 8 p.length] ++ p),
      xor8 ([0x00, a, c, BitVec.ofNat 8 p.length] ++ p), cfg.term0, cfg.term1⟩ := by
    rw [hc, hx, ← ht.1, ← ht.2]
  have hd := codecDecode_frame (cls := cls) (addr := a) hp hlt htr
  rw [h0] at hd
  exact ⟨c, p, tr, lt, hp, rfl, hlt, htr, by injection hd⟩

end Sys2Proof.Machine
end

