-- ==== Sys2Proof/Laws/State.lean ====
section
/-! SUPPORT. One lemma per field of State and named update, so that no proof unfolds a record update. -/

namespace Sys2Proof.Machine

/-! `State.finish` -/

@[simp] theorem State.finish_buf (s : State) (e : ErrCode) (g : ErrInfo → ErrInfo) (r : Result) : (s.finish e g r).buf = s.buf := rfl
@[simp] theorem State.finish_replay (s : State) (e : ErrCode) (g : ErrInfo → ErrInfo) (r : Result) : (s.finish e g r).replay = s.replay := rfl
@[simp] theorem State.finish_wstate (s : State) (e : ErrCode) (g : ErrInfo → ErrInfo) (r : Result) : (s.finish e g r).wstate = s.wstate := rfl
@[simp] theorem State.finish_awaitId (s : State) (e : ErrCode) (g : ErrInfo → ErrInfo) (r : Result) : (s.finish e g r).awaitId = s.awaitId := rfl
@[simp] theorem State.finish_err (s : State) (e : ErrCode) (g : ErrInfo → ErrInfo) (r : Result) : (s.finish e g r).err = e := rfl
@[simp] theorem State.finish_errInfo (s : State) (e : ErrCode) (g : ErrInfo → ErrInfo) (r : Result) : (s.finish e g r).errInfo = g (Config.freeErrInfo s.fresh) := rfl
@[simp] theorem State.finish_lenWarn (s : State) (e : ErrCode) (g : ErrInfo → ErrInfo) (r : Result) : (s.finish e g r).lenWarn = s.lenWarn := rfl
@[simp] theorem State.finish_busy (s : State) (e : ErrCode) (g : ErrInfo → ErrInfo) (r : Result) : (s.finish e g r).busy = false := rfl
@[simp] theorem State.finish_lastMsgValid (s : State) (e : ErrCode) (g : ErrInfo → ErrInfo) (r : Result) : (s.finish e g r).lastMsgValid = s.lastMsgValid := rfl
@[simp] theorem State.finish_lastMsg (s : State) (e : ErrCode) (g : ErrInfo → ErrInfo) (r : Result) : (s.finish e g r).lastMsg = s.lastMsg := rfl
@[simp] theorem State.finish_slotAmp (s : State) (e : ErrCode) (g : ErrInfo → ErrInfo) (r : Result) : (s.finish e g r).slotAmp = s.slotAmp := rfl
@[simp] theorem State.finish_slotSeed (s : State) (e : ErrCode) (g : ErrInfo → ErrInfo) (r : Result) : (s.finish e g r).slotSeed = s.slotSeed := rfl
@[simp] theorem State.finish_cfg (s : State) (e : ErrCode) (g : ErrInfo → ErrInfo) (r : Result) : (s.finish e g r).cfg = s.cfg := rfl
@[simp] theorem State.finish_run (s : State) (e : ErrCode) (g : ErrInfo → ErrInfo) (r : Result) : (s.finish e g r).run = .none := rfl
@[simp] theorem State.finish_ctl (s : State) (e : ErrCode) (g : ErrInfo → ErrInfo) (r : Result) : (s.finish e g r).ctl = .idle := rfl
@[simp] theorem State.finish_rx (s : State) (e : ErrCode) (g : ErrInfo → ErrInfo) (r : Result) : (s.finish e g r).rx = s.rx := rfl
@[simp] theorem State.finish_avail (s : State) (e : ErrCode) (g : ErrInfo → ErrInfo) (r : Result) : (s.finish e g r).avail = s.avail := rfl
@[simp] theorem State.finish_txAns (s : State) (e : ErrCode) (g : ErrInfo → ErrInfo) (r : Result) : (s.finish e g r).txAns = s.txAns := rfl
@[simp] theorem State.finish_host (s : State) (e : ErrCode) (g : ErrInfo → ErrInfo) (r : Result) : (s.finish e g r).host = s.host := rfl
@[simp] theorem State.finish_turns (s : State) (e : ErrCode) (g : ErrInfo → ErrInfo) (r : Result) : (s.finish e g r).turns = s.turns := rfl
@[simp] theorem State.finish_tx (s : State) (e : ErrCode) (g : ErrInfo → ErrInfo) (r : Result) : (s.finish e g r).tx = s.tx := rfl
@[simp] theorem State.finish_res (s : State) (e : ErrCode) (g : ErrInfo → ErrInfo) (r : Result) : (s.finish e g r).res = s.res ++ [.opDone e r] := rfl
@[simp] theorem State.finish_consumed (s : State) (e : ErrCode) (g : ErrInfo → ErrInfo) (r : Result) : (s.finish e g r).consumed = s.consumed := rfl
@[simp] theorem State.finish_fresh (s : State) (e : ErrCode) (g : ErrInfo → ErrInfo) (r : Result) : (s.finish e g r).fresh = s.fresh + 1 := rfl

/-! `State.complete` -/

@[simp] theorem State.complete_buf (s : State) (r : Result) : (s.complete r).buf = s.buf := rfl
@[simp] theorem State.complete_replay (s : State) (r : Result) : (s.complete r).replay = s.replay := rfl
@[simp] theorem State.complete_wstate (s : State) (r : Result) : (s.complete r).wstate = s.wstate := rfl
@[simp] theorem State.complete_awaitId (s : State) (r : Result) : (s.complete r).awaitId = s.awaitId := rfl
@[simp] theorem State.complete_err (s : State) (r : Result) : (s.complete r).err = .none := rfl
@[simp] theorem State.complete_errInfo (s : State) (r : Result) : (s.complete r).errInfo = Config.freeErrInfo s.fresh := rfl
@[simp] theorem State.complete_lenWarn (s : State) (r : Result) : (s.complete r).lenWarn = s.lenWarn := rfl
@[simp] theorem State.complete_busy (s : State) (r : Result) : (s.complete r).busy = false := rfl
@[simp] theorem State.complete_lastMsgValid (s : State) (r : Result) : (s.complete r).lastMsgValid = s.lastMsgValid := rfl
@[simp] theorem State.complete_lastMsg (s : State) (r : Result) : (s.complete r).lastMsg = s.lastMsg := rfl
@[simp] theorem State.complete_slotAmp (s : State) (r : Result) : (s.complete r).slotAmp = s.slotAmp := rfl
@[simp] theorem State.complete_slotSeed (s : State) (r : Result) : (s.complete r).slotSeed = s.slotSeed := rfl
@[simp] theorem State.complete_cfg (s : State) (r : Result) : (s.complete r).cfg = s.cfg := rfl
@[simp] theorem State.complete_run (s : State) (r : Result) : (s.complete r).run = .none := rfl
@[simp] theorem State.complete_ctl (s : State) (r : Result) : (s.complete r).ctl = .idle := rfl
@[simp] theorem State.complete_rx (s : State) (r : Result) : (s.complete r).rx = s.rx := rfl
@[simp] theorem State.complete_avail (s : State) (r : Result) : (s.complete r).avail = s.avail := rfl
@[simp] theorem State.complete_txAns (s : State) (r : Result) : (s.complete r).txAns = s.txAns := rfl
@[simp] theorem State.complete_host (s : State) (r : Result) : (s.complete r).host = s.host := rfl
@[simp] theorem State.complete_turns (s : State) (r : Result) : (s.complete r).turns = s.turns := rfl
@[simp] theorem State.complete_tx (s : State) (r : Result) : (s.complete r).tx = s.tx := rfl
@[simp] theorem State.complete_res (s : State) (r : Result) : (s.complete r).res = s.res ++ [.opDone .none r] := rfl
@[simp] theorem State.complete_consumed (s : State) (r : Result) : (s.complete r).consumed = s.consumed := rfl
@[simp] theorem State.complete_fresh (s : State) (r : Result) : (s.complete r).fresh = s.fresh + 1 := rfl

/-! `State.clearEngine` -/

@[simp] theorem State.clearEngine_buf (s : State) : (s.clearEngine).buf = [] := rfl
@[simp] theorem State.clearEngine_replay (s : State) : (s.clearEngine).replay = [] := rfl
@[simp] theorem State.clearEngine_wstate (s : State) : (s.clearEngine).wstate = s.wstate := rfl
@[simp] theorem State.clearEngine_awaitId (s : State) : (s.clearEngine).awaitId = s.awaitId := rfl
@[simp] theorem State.clearEngine_err (s : State) : (s.clearEngine).err = s.err := rfl
@[simp] theorem State.clearEngine_errInfo (s : State) : (s.clearEngine).errInfo = s.errInfo := rfl
@[simp] theorem State.clearEngine_lenWarn (s : State) : (s.clearEngine).lenWarn = s.lenWarn := rfl
@[simp] theorem State.clearEngine_busy (s : State) : (s.clearEngine).busy = s.busy := rfl
@[simp] theorem State.clearEngine_lastMsgValid (s : State) : (s.clearEngine).lastMsgValid = s.lastMsgValid := rfl
@[simp] theorem State.clearEngine_lastMsg (s : State) : (s.clearEngine).lastMsg = s.lastMsg := rfl
@[simp] theorem State.clearEngine_slotAmp (s : State) : (s.clearEngine).slotAmp = s.slotAmp := rfl
@[simp] theorem State.clearEngine_slotSeed (s : State) : (s.clearEngine).slotSeed = s.slotSeed := rfl
@[simp] theorem State.clearEngine_cfg (s : State) : (s.clearEngine).cfg = s.cfg := rfl
@[simp] theorem State.clearEngine_run (s : State) : (s.clearEngine).run = s.run := rfl
@[simp] theorem State.clearEngine_ctl (s : State) : (s.clearEngine).ctl = s.ctl := rfl
@[simp] theorem State.clearEngine_rx (s : State) : (s.clearEngine).rx = s.rx := rfl
@[simp] theorem State.clearEngine_avail (s : State) : (s.clearEngine).avail = s.avail := rfl
@[simp] theorem State.clearEngine_txAns (s : State) : (s.clearEngine).txAns = s.txAns := rfl
@[simp] theorem State.clearEngine_host (s : State) : (s.clearEngine).host = s.host := rfl
@[simp] theorem State.clearEngine_turns (s : State) : (s.clearEngine).turns = s.turns := rfl
@[simp] theorem State.clearEngine_tx (s : State) : (s.clearEngine).tx = s.tx := rfl
@[simp] theorem State.clearEngine_res (s : State) : (s.clearEngine).res = s.res := rfl
@[simp] theorem State.clearEngine_consumed (s : State) : (s.clearEngine).consumed = s.consumed := rfl
@[simp] theorem State.clearEngine_fresh (s : State) : (s.clearEngine).fresh = s.fresh := rfl

/-! `State.begin` -/

@[simp] theorem State.begin_buf (s : State) (w : WState) (r : Run) (c : Ctl) : (s.begin w r c).buf = s.buf := rfl
@[simp] theorem State.begin_replay (s : State) (w : WState) (r : Run) (c : Ctl) : (s.begin w r c).replay = s.replay := rfl
@[simp] theorem State.begin_wstate (s : State) (w : WState) (r : Run) (c : Ctl) : (s.begin w r c).wstate = w := rfl
@[simp] theorem State.begin_awaitId (s : State) (w : WState) (r : Run) (c : Ctl) : (s.begin w r c).awaitId = s.awaitId := rfl
@[simp] theorem State.begin_err (s : State) (w : WState) (r : Run) (c : Ctl) : (s.begin w r c).err = s.err := rfl
@[simp] theorem State.begin_errInfo (s : State) (w : WState) (r : Run) (c : Ctl) : (s.begin w r c).errInfo = s.errInfo := rfl
@[simp] theorem State.begin_lenWarn (s : State) (w : WState) (r : Run) (c : Ctl) : (s.begin w r c).lenWarn = s.lenWarn := rfl
@[simp] theorem State.begin_busy (s : State) (w : WState) (r : Run) (c : Ctl) : (s.begin w r c).busy = true := rfl
@[simp] theorem State.begin_lastMsgValid (s : State) (w : WState) (r : Run) (c : Ctl) : (s.begin w r c).lastMsgValid = s.lastMsgValid := rfl
@[simp] theorem State.begin_lastMsg (s : State) (w : WState) (r : Run) (c : Ctl) : (s.begin w r c).lastMsg = s.lastMsg := rfl
@[simp] theorem State.begin_slotAmp (s : State) (w : WState) (r : Run) (c : Ctl) : (s.begin w r c).slotAmp = s.slotAmp := rfl
@[simp] theorem State.begin_slotSeed (s : State) (w : WState) (r : Run) (c : Ctl) : (s.begin w r c).slotSeed = s.slotSeed := rfl
@[simp] theorem State.begin_cfg (s : State) (w : WState) (r : Run) (c : Ctl) : (s.begin w r c).cfg = s.cfg := rfl
@[simp] theorem State.begin_run (s : State) (w : WState) (r : Run) (c : Ctl) : (s.begin w r c).run = r := rfl
@[simp] theorem State.begin_ctl (s : State) (w : WState) (r : Run) (c : Ctl) : (s.begin w r c).ctl = c := rfl
@[simp] theorem State.begin_rx (s : State) (w : WState) (r : Run) (c : Ctl) : (s.begin w r c).rx = s.rx := rfl
@[simp] theorem State.begin_avail (s : State) (w : WState) (r : Run) (c : Ctl) : (s.begin w r c).avail = s.avail := rfl
@[simp] theorem State.begin_txAns (s : State) (w : WState) (r : Run) (c : Ctl) : (s.begin w r c).txAns = s.txAns := rfl
@[simp] theorem State.begin_host (s : State) (w : WState) (r : Run) (c : Ctl) : (s.begin w r c).host = s.host := rfl
@[simp] theorem State.begin_turns (s : State) (w : WState) (r : Run) (c : Ctl) : (s.begin w r c).turns = s.turns := rfl
@[simp] theorem State.begin_tx (s : State) (w : WState) (r : Run) (c : Ctl) : (s.begin w r c).tx = s.tx := rfl
@[simp] theorem State.begin_res (s : State) (w : WState) (r : Run) (c : Ctl) : (s.begin w r c).res = s.res := rfl
@[simp] theorem State.begin_consumed (s : State) (w : WState) (r : Run) (c : Ctl) : (s.begin w r c).consumed = s.consumed := rfl
@[simp] theorem State.begin_fresh (s : State) (w : WState) (r : Run) (c : Ctl) : (s.begin w r c).fresh = s.fresh := rfl

/-! `State.deliver` -/

@[simp] theorem State.deliver_buf (s : State) (m : Message) : (s.deliver m).buf = s.buf := rfl
@[simp] theorem State.deliver_replay (s : State) (m : Message) : (s.deliver m).replay = s.replay := rfl
@[simp] theorem State.deliver_wstate (s : State) (m : Message) : (s.deliver m).wstate = s.wstate := rfl
@[simp] theorem State.deliver_awaitId (s : State) (m : Message) : (s.deliver m).awaitId = s.awaitId := rfl
@[simp] theorem State.deliver_err (s : State) (m : Message) : (s.deliver m).err = s.err := rfl
@[simp] theorem State.deliver_errInfo (s : State) (m : Message) : (s.deliver m).errInfo = s.errInfo := rfl
@[simp] theorem State.deliver_lenWarn (s : State) (m : Message) : (s.deliver m).lenWarn = s.lenWarn := rfl
@[simp] theorem State.deliver_busy (s : State) (m : Message) : (s.deliver m).busy = s.busy := rfl
@[simp] theorem State.deliver_lastMsgValid (s : State) (m : Message) : (s.deliver m).lastMsgValid = true := rfl
@[simp] theorem State.deliver_lastMsg (s : State) (m : Message) : (s.deliver m).lastMsg = m := rfl
@[simp] theorem State.deliver_slotAmp (s : State) (m : Message) : (s.deliver m).slotAmp = s.slotAmp := rfl
@[simp] theorem State.deliver_slotSeed (s : State) (m : Message) : (s.deliver m).slotSeed = s.slotSeed := rfl
@[simp] theorem State.deliver_cfg (s : State) (m : Message) : (s.deliver m).cfg = s.cfg := rfl
@[simp] theorem State.deliver_run (s : State) (m : Message) : (s.deliver m).run = s.run := rfl
@[simp] theorem State.deliver_ctl (s : State) (m : Message) : (s.deliver m).ctl = s.ctl := rfl
@[simp] theorem State.deliver_rx (s : State) (m : Message) : (s.deliver m).rx = s.rx := rfl
@[simp] theorem State.deliver_avail (s : State) (m : Message) : (s.deliver m).avail = s.avail := rfl
@[simp] theorem State.deliver_txAns (s : State) (m : Message) : (s.deliver m).txAns = s.txAns := rfl
@[simp] theorem State.deliver_host (s : State) (m : Message) : (s.deliver m).host = s.host := rfl
@[simp] theorem State.deliver_turns (s : State) (m : Message) : (s.deliver m).turns = s.turns := rfl
@[simp] theorem State.deliver_tx (s : State) (m : Message) : (s.deliver m).tx = s.tx := rfl
@[simp] theorem State.deliver_res (s : State) (m : Message) : (s.deliver m).res = s.res := rfl
@[simp] theorem State.deliver_consumed (s : State) (m : Message) : (s.deliver m).consumed = s.consumed := rfl
@[simp] theorem State.deliver_fresh (s : State) (m : Message) : (s.deliver m).fresh = s.fresh := rfl

/-! `State.answer` -/

@[simp] theorem State.answer_buf (s : State) (r : Result) : (s.answer r).buf = s.buf := rfl
@[simp] theorem State.answer_replay (s : State) (r : Result) : (s.answer r).replay = s.replay := rfl
@[simp] theorem State.answer_wstate (s : State) (r : Result) : (s.answer r).wstate = s.wstate := rfl
@[simp] theorem State.answer_awaitId (s : State) (r : Result) : (s.answer r).awaitId = s.awaitId := rfl
@[simp] theorem State.answer_err (s : State) (r : Result) : (s.answer r).err = s.err := rfl
@[simp] theorem State.answer_errInfo (s : State) (r : Result) : (s.answer r).errInfo = s.errInfo := rfl
@[simp] theorem State.answer_lenWarn (s : State) (r : Result) : (s.answer r).lenWarn = s.lenWarn := rfl
@[simp] theorem State.answer_busy (s : State) (r : Result) : (s.answer r).busy = s.busy := rfl
@[simp] theorem State.answer_lastMsgValid (s : State) (r : Result) : (s.answer r).lastMsgValid = s.lastMsgValid := rfl
@[simp] theorem State.answer_lastMsg (s : State) (r : Result) : (s.answer r).lastMsg = s.lastMsg := rfl
@[simp] theorem State.answer_slotAmp (s : State) (r : Result) : (s.answer r).slotAmp = s.slotAmp := rfl
@[simp] theorem State.answer_slotSeed (s : State) (r : Result) : (s.answer r).slotSeed = s.slotSeed := rfl
@[simp] theorem State.answer_cfg (s : State) (r : Result) : (s.answer r).cfg = s.cfg := rfl
@[simp] theorem State.answer_run (s : State) (r : Result) : (s.answer r).run = s.run := rfl
@[simp] theorem State.answer_ctl (s : State) (r : Result) : (s.answer r).ctl = s.ctl := rfl
@[simp] theorem State.answer_rx (s : State) (r : Result) : (s.answer r).rx = s.rx := rfl
@[simp] theorem State.answer_avail (s : State) (r : Result) : (s.answer r).avail = s.avail := rfl
@[simp] theorem State.answer_txAns (s : State) (r : Result) : (s.answer r).txAns = s.txAns := rfl
@[simp] theorem State.answer_host (s : State) (r : Result) : (s.answer r).host = s.host := rfl
@[simp] theorem State.answer_turns (s : State) (r : Result) : (s.answer r).turns = s.turns := rfl
@[simp] theorem State.answer_tx (s : State) (r : Result) : (s.answer r).tx = s.tx := rfl
@[simp] theorem State.answer_res (s : State) (r : Result) : (s.answer r).res = s.res ++ [.readback r] := rfl
@[simp] theorem State.answer_consumed (s : State) (r : Result) : (s.answer r).consumed = s.consumed := rfl
@[simp] theorem State.answer_fresh (s : State) (r : Result) : (s.answer r).fresh = s.fresh := rfl

/-! `State.afterSlotRead` -/

@[simp] theorem State.afterSlotRead_buf (s : State) (sel : SlotSel) : (s.afterSlotRead sel).buf = s.buf := rfl
@[simp] theorem State.afterSlotRead_replay (s : State) (sel : SlotSel) : (s.afterSlotRead sel).replay = s.replay := rfl
@[simp] theorem State.afterSlotRead_wstate (s : State) (sel : SlotSel) : (s.afterSlotRead sel).wstate = s.wstate := rfl
@[simp] theorem State.afterSlotRead_awaitId (s : State) (sel : SlotSel) : (s.afterSlotRead sel).awaitId = s.awaitId := rfl
@[simp] theorem State.afterSlotRead_err (s : State) (sel : SlotSel) : (s.afterSlotRead sel).err = s.err := rfl
@[simp] theorem State.afterSlotRead_errInfo (s : State) (sel : SlotSel) : (s.afterSlotRead sel).errInfo = s.errInfo := rfl
@[simp] theorem State.afterSlotRead_lenWarn (s : State) (sel : SlotSel) : (s.afterSlotRead sel).lenWarn = s.lenWarn := rfl
@[simp] theorem State.afterSlotRead_busy (s : State) (sel : SlotSel) : (s.afterSlotRead sel).busy = s.busy := rfl
@[simp] theorem State.afterSlotRead_lastMsgValid (s : State) (sel : SlotSel) : (s.afterSlotRead sel).lastMsgValid = s.lastMsgValid := rfl
@[simp] theorem State.afterSlotRead_lastMsg (s : State) (sel : SlotSel) : (s.afterSlotRead sel).lastMsg = s.lastMsg := rfl
@[simp] theorem State.afterSlotRead_slotAmp (s : State) (sel : SlotSel) : (s.afterSlotRead sel).slotAmp = s.slotAmp := rfl
@[simp] theorem State.afterSlotRead_slotSeed (s : State) (sel : SlotSel) : (s.afterSlotRead sel).slotSeed = s.slotSeed := rfl
@[simp] theorem State.afterSlotRead_cfg (s : State) (sel : SlotSel) : (s.afterSlotRead sel).cfg = s.cfg := rfl
@[simp] theorem State.afterSlotRead_run (s : State) (sel : SlotSel) : (s.afterSlotRead sel).run = s.run := rfl
@[simp] theorem State.afterSlotRead_ctl (s : State) (sel : SlotSel) : (s.afterSlotRead sel).ctl = s.ctl := rfl
@[simp] theorem State.afterSlotRead_rx (s : State) (sel : SlotSel) : (s.afterSlotRead sel).rx = s.rx := rfl
@[simp] theorem State.afterSlotRead_avail (s : State) (sel : SlotSel) : (s.afterSlotRead sel).avail = s.avail := rfl
@[simp] theorem State.afterSlotRead_txAns (s : State) (sel : SlotSel) : (s.afterSlotRead sel).txAns = s.txAns := rfl
@[simp] theorem State.afterSlotRead_host (s : State) (sel : SlotSel) : (s.afterSlotRead sel).host = s.host := rfl
@[simp] theorem State.afterSlotRead_turns (s : State) (sel : SlotSel) : (s.afterSlotRead sel).turns = s.turns := rfl
@[simp] theorem State.afterSlotRead_tx (s : State) (sel : SlotSel) : (s.afterSlotRead sel).tx = s.tx := rfl
@[simp] theorem State.afterSlotRead_res (s : State) (sel : SlotSel) : (s.afterSlotRead sel).res = s.res := rfl
@[simp] theorem State.afterSlotRead_consumed (s : State) (sel : SlotSel) : (s.afterSlotRead sel).consumed = s.consumed := rfl
@[simp] theorem State.afterSlotRead_fresh (s : State) (sel : SlotSel) : (s.afterSlotRead sel).fresh = (if s.busy then s.fresh + (s.slot sel).raw.length else s.fresh) := rfl

/-! `State.storeSlot` -/

@[simp] theorem State.storeSlot_buf (s : State) (sel : SlotSel) (p : List Byte) :
    (s.storeSlot sel p).buf = s.buf := by cases sel <;> rfl
@[simp] theorem State.storeSlot_replay (s : State) (sel : SlotSel) (p : List Byte) :
    (s.storeSlot sel p).replay = s.replay := by cases sel <;> rfl
@[simp] theorem State.storeSlot_wstate (s : State) (sel : SlotSel) (p : List Byte) :
    (s.storeSlot sel p).wstate = s.wstate := by cases sel <;> rfl
@[simp] theorem State.storeSlot_awaitId (s : State) (sel : SlotSel) (p : List Byte) :
    (s.storeSlot sel p).awaitId = s.awaitId := by cases sel <;> rfl
@[simp] theorem State.storeSlot_err (s : State) (sel : SlotSel) (p : List Byte) :
    (s.storeSlot sel p).err = s.err := by cases sel <;> rfl
@[simp] theorem State.storeSlot_errInfo (s : State) (sel : SlotSel) (p : List Byte) :
    (s.storeSlot sel p).errInfo = s.errInfo := by cases sel <;> rfl
@[simp] theorem State.storeSlot_lenWarn (s : State) (sel : SlotSel) (p : List Byte) :
    (s.storeSlot sel p).lenWarn = s.lenWarn := by cases sel <;> rfl
@[simp] theorem State.storeSlot_busy (s : State) (sel : SlotSel) (p : List Byte) :
    (s.storeSlot sel p).busy = s.busy := by cases sel <;> rfl
@[simp] theorem State.storeSlot_lastMsgValid (s : State) (sel : SlotSel) (p : List Byte) :
    (s.storeSlot sel p).lastMsgValid = s.lastMsgValid := by cases sel <;> rfl
@[simp] theorem State.storeSlot_lastMsg (s : State) (sel : SlotSel) (p : List Byte) :
    (s.storeSlot sel p).lastMsg = s.lastMsg := by cases sel <;> rfl
@[simp] theorem State.storeSlot_slotAmp (s : State) (sel : SlotSel) (p : List Byte) :
    (s.storeSlot sel p).slotAmp = (if sel = .amp then ⟨true, p⟩ else s.slotAmp) := by cases sel <;> rfl
@[simp] theorem State.storeSlot_slotSeed (s : State) (sel : SlotSel) (p : List Byte) :
    (s.storeSlot sel p).slotSeed = (if sel = .seed then ⟨true, p⟩ else s.slotSeed) := by cases sel <;> rfl
@[simp] theorem State.storeSlot_cfg (s : State) (sel : SlotSel) (p : List Byte) :
    (s.storeSlot sel p).cfg = s.cfg := by cases sel <;> rfl
@[simp] theorem State.storeSlot_run (s : State) (sel : SlotSel) (p : List Byte) :
    (s.storeSlot sel p).run = s.run := by cases sel <;> rfl
@[simp] theorem State.storeSlot_ctl (s : State) (sel : SlotSel) (p : List Byte) :
    (s.storeSlot sel p).ctl = s.ctl := by cases sel <;> rfl
@[simp] theorem State.storeSlot_rx (s : State) (sel : SlotSel) (p : List Byte) :
    (s.storeSlot sel p).rx = s.rx := by cases sel <;> rfl
@[simp] theorem State.storeSlot_avail (s : State) (sel : SlotSel) (p : List Byte) :
    (s.storeSlot sel p).avail = s.avail := by cases sel <;> rfl
@[simp] theorem State.storeSlot_txAns (s : State) (sel : SlotSel) (p : List Byte) :
    (s.storeSlot sel p).txAns = s.txAns := by cases sel <;> rfl
@[simp] theorem State.storeSlot_host (s : State) (sel : SlotSel) (p : List Byte) :
    (s.storeSlot sel p).host = s.host := by cases sel <;> rfl
@[simp] theorem State.storeSlot_turns (s : State) (sel : SlotSel) (p : List Byte) :
    (s.storeSlot sel p).turns = s.turns := by cases sel <;> rfl
@[simp] theorem State.storeSlot_tx (s : State) (sel : SlotSel) (p : List Byte) :
    (s.storeSlot sel p).tx = s.tx := by cases sel <;> rfl
@[simp] theorem State.storeSlot_res (s : State) (sel : SlotSel) (p : List Byte) :
    (s.storeSlot sel p).res = s.res ++ [.slotUpdated sel] := by cases sel <;> rfl
@[simp] theorem State.storeSlot_consumed (s : State) (sel : SlotSel) (p : List Byte) :
    (s.storeSlot sel p).consumed = s.consumed := by cases sel <;> rfl
@[simp] theorem State.storeSlot_fresh (s : State) (sel : SlotSel) (p : List Byte) :
    (s.storeSlot sel p).fresh = s.fresh := by cases sel <;> rfl

/-! `State.raise` -/

@[simp] theorem State.raise_buf (s : State) (e : ErrCode) (g : ErrInfo → ErrInfo) :
    (s.raise e g).buf = (if isTransport e then [] else s.buf) := by cases e <;> rfl
@[simp] theorem State.raise_replay (s : State) (e : ErrCode) (g : ErrInfo → ErrInfo) :
    (s.raise e g).replay = (if isTransport e then [] else s.replay) := by cases e <;> rfl
@[simp] theorem State.raise_wstate (s : State) (e : ErrCode) (g : ErrInfo → ErrInfo) :
    (s.raise e g).wstate = s.wstate := by cases e <;> rfl
@[simp] theorem State.raise_awaitId (s : State) (e : ErrCode) (g : ErrInfo → ErrInfo) :
    (s.raise e g).awaitId = s.awaitId := by cases e <;> rfl
@[simp] theorem State.raise_err (s : State) (e : ErrCode) (g : ErrInfo → ErrInfo) :
    (s.raise e g).err = e := by cases e <;> rfl
@[simp] theorem State.raise_errInfo (s : State) (e : ErrCode) (g : ErrInfo → ErrInfo) :
    (s.raise e g).errInfo = g (Config.freeErrInfo s.fresh) := by cases e <;> rfl
@[simp] theorem State.raise_lenWarn (s : State) (e : ErrCode) (g : ErrInfo → ErrInfo) :
    (s.raise e g).lenWarn = s.lenWarn := by cases e <;> rfl
@[simp] theorem State.raise_busy (s : State) (e : ErrCode) (g : ErrInfo → ErrInfo) :
    (s.raise e g).busy = false := by cases e <;> rfl
@[simp] theorem State.raise_lastMsgValid (s : State) (e : ErrCode) (g : ErrInfo → ErrInfo) :
    (s.raise e g).lastMsgValid = s.lastMsgValid := by cases e <;> rfl
@[simp] theorem State.raise_lastMsg (s : State) (e : ErrCode) (g : ErrInfo → ErrInfo) :
    (s.raise e g).lastMsg = s.lastMsg := by cases e <;> rfl
@[simp] theorem State.raise_slotAmp (s : State) (e : ErrCode) (g : ErrInfo → ErrInfo) :
    (s.raise e g).slotAmp = s.slotAmp := by cases e <;> rfl
@[simp] theorem State.raise_slotSeed (s : State) (e : ErrCode) (g : ErrInfo → ErrInfo) :
    (s.raise e g).slotSeed = s.slotSeed := by cases e <;> rfl
@[simp] theorem State.raise_cfg (s : State) (e : ErrCode) (g : ErrInfo → ErrInfo) :
    (s.raise e g).cfg = s.cfg := by cases e <;> rfl
@[simp] theorem State.raise_run (s : State) (e : ErrCode) (g : ErrInfo → ErrInfo) :
    (s.raise e g).run = .none := by cases e <;> rfl
@[simp] theorem State.raise_ctl (s : State) (e : ErrCode) (g : ErrInfo → ErrInfo) :
    (s.raise e g).ctl = .idle := by cases e <;> rfl
@[simp] theorem State.raise_rx (s : State) (e : ErrCode) (g : ErrInfo → ErrInfo) :
    (s.raise e g).rx = s.rx := by cases e <;> rfl
@[simp] theorem State.raise_avail (s : State) (e : ErrCode) (g : ErrInfo → ErrInfo) :
    (s.raise e g).avail = s.avail := by cases e <;> rfl
@[simp] theorem State.raise_txAns (s : State) (e : ErrCode) (g : ErrInfo → ErrInfo) :
    (s.raise e g).txAns = s.txAns := by cases e <;> rfl
@[simp] theorem State.raise_host (s : State) (e : ErrCode) (g : ErrInfo → ErrInfo) :
    (s.raise e g).host = s.host := by cases e <;> rfl
@[simp] theorem State.raise_turns (s : State) (e : ErrCode) (g : ErrInfo → ErrInfo) :
    (s.raise e g).turns = s.turns := by cases e <;> rfl
@[simp] theorem State.raise_tx (s : State) (e : ErrCode) (g : ErrInfo → ErrInfo) :
    (s.raise e g).tx = s.tx := by cases e <;> rfl
@[simp] theorem State.raise_res (s : State) (e : ErrCode) (g : ErrInfo → ErrInfo) :
    (s.raise e g).res = s.res ++ [.opDone e .nothing] := by cases e <;> rfl
@[simp] theorem State.raise_consumed (s : State) (e : ErrCode) (g : ErrInfo → ErrInfo) :
    (s.raise e g).consumed = s.consumed := by cases e <;> rfl
@[simp] theorem State.raise_fresh (s : State) (e : ErrCode) (g : ErrInfo → ErrInfo) :
    (s.raise e g).fresh = s.fresh + 1 := by cases e <;> rfl

/-- An error that is no transport error leaves the engine as it is: `raise` is the end of the operation. -/
theorem State.raise_of_not_transport (s : State) (e : ErrCode) (g : ErrInfo → ErrInfo) (h : isTransport e = false) :
    s.raise e g = s.finish e g .nothing := by simp [State.raise, h]

@[simp] theorem State.slot_amp (s : State) : s.slot .amp = s.slotAmp := rfl
@[simp] theorem State.slot_seed (s : State) : s.slot .seed = s.slotSeed := rfl

end Sys2Proof.Machine
end

