-- ==== Sys2Proof/Laws/Ops.lean ====
section
/-! SUPPORT. What each shared operation can do: one lemma per operation, for a next state. -/

namespace Sys2Proof.Machine

theorem startPure_next {s t : State} {k : State → StepResult} (h : startPure s k = .next t) :
    s.busy = false ∧ k { s with wstate := .idle } = .next t := by
  unfold startPure at h
  split at h
  · cases h
  · exact ⟨by simp_all, h⟩

theorem startEngine_next {s t : State} {k : State → StepResult} (h : startEngine s k = .next t) :
    s.busy = false ∧ configured s = true ∧ k s = .next t := by
  unfold startEngine at h
  split at h
  · cases h
  · split at h
    · exact ⟨by simp_all, by assumption, h⟩
    · cases h

/-- DECODE on the receive path: the operation ends in a FrameError, or a Message goes on to DISPATCH. -/
theorem receiveFrame_next {raw : List Byte} {s t : State} (h : receiveFrame raw s = .next t) :
    (∃ e, codecDecode s.cfg raw s.cfg.addr .ret = .error e ∧
      t = ({ s with buf := [] } : State).raise e (frameErrInfo e raw)) ∨
    ∃ m, codecDecode s.cfg raw s.cfg.addr .ret = .message m ∧
      t = { s with buf := [], lenWarn := s.lenWarn || m.warn, ctl := .dispatch m } := by
  unfold receiveFrame at h
  split at h
  · cases h
  · rename_i e he
    exact .inl ⟨e, he, by injection h with h; exact h.symm⟩
  · rename_i m hm
    exact .inr ⟨m, hm, by injection h with h; exact h.symm⟩

theorem receiveFrameWord_next {raw : List Byte} {s t : State} (h : receiveFrameWord raw s = .next t) :
    s.run ≠ .none ∧ receiveFrame raw s = .next t := by
  unfold receiveFrameWord at h
  split at h
  · cases h
  · exact ⟨by assumption, h⟩

/-- DECODE reports no error but a FrameError. -/
theorem codecDecode_error {cfg : Cfg} {raw : List Byte} {addr : Byte} {cls : MsgClass} {e : ErrCode}
    (h : codecDecode cfg raw addr cls = .error e) :
    e = .badHeader ∨ e = .badTerminator ∨ e = .unknownCommand ∨ e = .checksumMismatch ∨ e = .xorMismatch := by
  simp only [codecDecode] at h
  repeat' split at h
  all_goals cases h
  all_goals simp

theorem codecDecode_error_not_transport {cfg : Cfg} {raw : List Byte} {addr : Byte} {cls : MsgClass} {e : ErrCode}
    (h : codecDecode cfg raw addr cls = .error e) : isTransport e = false ∧ e ≠ .none := by
  rcases codecDecode_error h with h | h | h | h | h <;> subst h <;> exact ⟨rfl, by decide⟩

/-- DECODE refuses exactly the buffers of impossible size. -/
theorem codecDecode_malformed {cfg : Cfg} {raw : List Byte} {addr : Byte} {cls : MsgClass} :
    codecDecode cfg raw addr cls = .malformed ↔ raw.length < 9 ∨ raw.length ≠ 9 + (byteAt raw 4).toNat := by
  constructor
  · intro h
    by_contra hn
    simp only [codecDecode, hn, if_false] at h
    repeat' split at h
    all_goals cases h
  · intro h
    simp only [codecDecode, h, if_true]

/-- A buffer with the frame start right raises no `BadHeader`. -/
theorem codecDecode_ne_badHeader {cfg : Cfg} {raw : List Byte} {addr : Byte} {cls : MsgClass}
    (h0 : byteAt raw 0 = cfg.header) (h1 : byteAt raw 1 = 0x00#8) (h2 : byteAt raw 2 = addr) :
    codecDecode cfg raw addr cls ≠ .error .badHeader := by
  intro h
  simp only [codecDecode, h0, h1, h2, ne_eq, not_true_eq_false, or_self, if_false] at h
  repeat' split at h
  all_goals cases h

/-- What follows a dispatched frame. -/
theorem frameDone_next {m : Message} {s t : State} (h : frameDone m s = .next t) :
    (s.run = .recv ∧ t = (s.deliver m).complete (.message m)) ∨
    ((s.run = .drain ∨ ∃ f, s.run = .send f) ∧ t = { s.deliver m with ctl := .avail }) ∨
    (s.run = .await ∧ m.command = s.awaitId ∧
      t = ({ s.deliver m with wstate := .matched } : State).complete (.message m)) ∨
    (s.run = .await ∧ m.command ≠ s.awaitId ∧ t = { s.deliver m with ctl := .rx }) := by
  unfold frameDone at h
  split at h
  · cases h
  · exact .inl ⟨by assumption, by injection h with h; exact h.symm⟩
  · exact .inr (.inl ⟨.inl (by assumption), by injection h with h; exact h.symm⟩)
  · exact .inr (.inl ⟨.inr ⟨_, by assumption⟩, by injection h with h; exact h.symm⟩)
  · split at h
    · exact .inr (.inr (.inl ⟨by assumption, by assumption, by injection h with h; exact h.symm⟩))
    · exact .inr (.inr (.inr ⟨by assumption, by assumption, by injection h with h; exact h.symm⟩))

/-- DISPATCH to a slot: PayloadMissing, WrongLength, or the overwrite and what follows. -/
theorem dispatchTo_next {sel : SlotSel} {want : Nat} {m : Message} {s t : State} (h : dispatchTo sel want m s = .next t) :
    s.run ≠ .none ∧
      ((m.payload = none ∧ t = s.raise .payloadMissing (commandErrInfo m.command)) ∨
       (∃ p, m.payload = some p ∧ p.length ≠ want ∧ t = s.raise .wrongLength (lengthErrInfo p.length)) ∨
       ∃ p, m.payload = some p ∧ p.length = want ∧ frameDone m (s.storeSlot sel p) = .next t) := by
  unfold dispatchTo at h
  split at h
  · cases h
  · rename_i hr
    refine ⟨hr, ?_⟩
    split at h
    · exact .inl ⟨by assumption, by injection h with h; exact h.symm⟩
    · rename_i p hp
      split at h
      · exact .inr (.inl ⟨p, hp, by assumption, by injection h with h; exact h.symm⟩)
      · rename_i hl
        exact .inr (.inr ⟨p, hp, by simpa using hl, h⟩)

/-- The answer to the `AVAIL` query. -/
theorem availAnswer_next {n : Nat} {s t : State} (h : availAnswer n s = .next t) :
    (0 < n ∧ t = { s with ctl := .rx }) ∨ (n = 0 ∧ s.run = .drain ∧ t = s.complete .nothing) ∨
    (n = 0 ∧ (∃ f, s.run = .send f) ∧ t = { s with ctl := .tx }) := by
  unfold availAnswer at h
  split at h
  · exact .inl ⟨by assumption, by injection h with h; exact h.symm⟩
  · split at h
    · exact .inr (.inl ⟨by omega, by assumption, by injection h with h; exact h.symm⟩)
    · exact .inr (.inr ⟨by omega, ⟨_, by assumption⟩, by injection h with h; exact h.symm⟩)
    · cases h

/-- A status decoder started by the host: the value, or WrongLength. -/
theorem decodeStatus_next {want : Nat} {p : List Byte} {r : Result} {s t : State}
    (h : decodeStatus want p r s = .next t) :
    s.busy = false ∧
      ((p.length = want ∧ t = ({ s with wstate := .idle } : State).complete r) ∨
       (p.length ≠ want ∧ t = ({ s with wstate := .idle } : State).raise .wrongLength (lengthErrInfo p.length))) := by
  obtain ⟨hb, h⟩ := startPure_next h
  refine ⟨hb, ?_⟩
  split at h
  · exact .inr ⟨by assumption, by injection h with h; exact h.symm⟩
  · exact .inl ⟨by omega, by injection h with h; exact h.symm⟩

/-- A FIELD row: its value on `RES`, nothing else. -/
theorem evalField_next {sel : FieldSel} {c : List Byte} {r : Result} {s t : State} (h : evalField sel c r s = .next t) :
    c.length = fieldSize s.cfg sel ∧ t = { s with res := s.res ++ [.readback r] } := by
  unfold evalField at h
  split at h
  · exact ⟨by assumption, by injection h with h; exact h.symm⟩
  · cases h

/-- One received byte, by phase. -/
theorem execRxByte_next {b : Byte} {s t : State} (h : execRxByte b s = .next t) :
    s.ctl = .rx ∧
      ((s.buf = [] ∧ t = if b = s.cfg.header then { s with buf := [b] } else s) ∨
       (∃ h0, s.buf = [h0] ∧ t = { s with buf := [h0, b] }) ∨
       (∃ h0 z, s.buf = [h0, z] ∧
          t = if z = 0x00#8 ∧ b = s.cfg.addr then { s with buf := [h0, z, b] }
            else { s with buf := [], replay := [z, b] }) ∨
       ((s.buf.length = 3 ∨ s.buf.length = 4) ∧ t = { s with buf := s.buf ++ [b] }) ∨
       (5 ≤ s.buf.length ∧ s.buf.length + 1 ≠ 9 + (byteAt s.buf 4).toNat ∧ t = { s with buf := s.buf ++ [b] }) ∨
       (5 ≤ s.buf.length ∧ s.buf.length + 1 = 9 + (byteAt s.buf 4).toNat ∧
          receiveFrame (s.buf ++ [b]) s = .next t)) := by
  unfold execRxByte at h
  split at h
  · rename_i ha
    refine ⟨by simpa [engineActive] using ha, ?_⟩
    match hbuf : s.buf with
    | [] =>
      refine .inl ⟨rfl, ?_⟩
      simp only [hbuf, phaseOf, List.length_nil, if_true, rxHunt] at h
      split at h <;> (injection h with h; simp_all)
    | [h0] =>
      refine .inr (.inl ⟨h0, rfl, ?_⟩)
      simp [phaseOf, hbuf, rxAddr] at h
      exact h.symm
    | [h0, z] =>
      refine .inr (.inr (.inl ⟨h0, z, rfl, ?_⟩))
      simp [phaseOf, hbuf, rxAddr, byteAt] at h
      split at h <;> (injection h with h; simp_all)
    | [a, b', c] =>
      refine .inr (.inr (.inr (.inl ⟨.inl rfl, ?_⟩)))
      simp [phaseOf, hbuf, rxCmdLen] at h
      exact h.symm
    | [a, b', c, d] =>
      refine .inr (.inr (.inr (.inl ⟨.inr rfl, ?_⟩)))
      simp [phaseOf, hbuf, rxCmdLen] at h
      exact h.symm
    | a :: b' :: c :: d :: l :: rest =>
      refine .inr (.inr (.inr (.inr ?_)))
      have hp : phaseOf s.buf = .body := by
        rw [hbuf, phaseOf, if_neg (by simp), if_neg (by simp), if_neg (by simp)]
      have h4 : byteAt (s.buf ++ [b]) 4 = byteAt s.buf 4 := by
        apply byteAt_append_left; simp [hbuf]
      simp only [hp, rxBody, h4, List.length_append, List.length_singleton] at h
      rw [← hbuf]
      split at h
      · exact .inr ⟨by simp [hbuf], by assumption, h⟩
      · exact .inl ⟨by simp [hbuf], by assumption, by injection h with h; exact h.symm⟩
  · cases h

/-- An overrun: the same request again, or a fatal end. -/
theorem execRxOverrun_next {x : Byte} {s t : State} (h : execRxOverrun x s = .next t) :
    s.ctl = .rx ∧ (t = s ∨ (s.cfg.overrunScope = .huntOnly ∧ s.buf ≠ [] ∧ t = s.raise .transportOverrun id)) := by
  unfold execRxOverrun at h
  split at h
  · rename_i ha
    refine ⟨by simpa [engineActive] using ha, ?_⟩
    split at h
    · exact .inl (by injection h with h; exact h.symm)
    · rename_i hs
      refine .inr ⟨?_, ?_, by injection h with h; exact h.symm⟩
      · cases hc : s.cfg.overrunScope <;> simp_all
      · intro hb; exact hs (.inr (by simp [hb, phaseOf]))
  · cases h

theorem execRxFatal_next {x : Byte} {s t : State} (h : execRxFatal x s = .next t) :
    s.ctl = .rx ∧ t = s.raise .transportFatal id := by
  unfold execRxFatal at h
  split at h
  · rename_i ha
    exact ⟨by simpa [engineActive] using ha, by injection h with h; exact h.symm⟩
  · cases h

theorem execRxTimeout_next {x : Byte} {s t : State} (h : execRxTimeout x s = .next t) :
    s.ctl = .rx ∧ t = s.raise .transportTimeout id := by
  unfold execRxTimeout at h
  split at h
  · rename_i ha
    exact ⟨by simpa [engineActive] using ha, by injection h with h; exact h.symm⟩
  · cases h

/-- SEND's start. -/
theorem execSend_next {cmd addr : Byte} {p : Payload} {s t : State} (h : execSend cmd addr p s = .next t) :
    s.busy = false ∧ configured s = true ∧
      ∃ m, codecEncode s.cfg .command cmd addr p = .ok m ∧ t = s.begin .idle (.send m.commandBytes) .avail := by
  obtain ⟨hb, hc, h⟩ := startEngine_next h
  refine ⟨hb, hc, ?_⟩
  split at h
  · cases h
  · rename_i m hm
    exact ⟨m, hm, by injection h with h; exact h.symm⟩

/-- SEND's write. -/
theorem execFrameCmd_next {addr cmd : Byte} {p : List Byte} {tr : Trailer} {s t : State}
    (h : execFrameCmd addr cmd p tr s = .next t) :
    s.ctl = .tx ∧
      ((s.txAns = [] ∧ t = s) ∨
       (∃ rest, s.txAns = true :: rest ∧ t = ({ s with
          txAns := rest, tx := s.tx ++ [frameBytes s.cfg.header addr cmd p tr] } : State).complete .nothing) ∨
       ∃ rest, s.txAns = false :: rest ∧ t = ({ s with txAns := rest } : State).raise .transportFatal id) := by
  unfold execFrameCmd at h
  split at h
  · rename_i hc
    refine ⟨hc, ?_⟩
    split at h
    · exact .inl ⟨by assumption, by injection h with h; exact h.symm⟩
    · exact .inr (.inl ⟨_, by assumption, by injection h with h; exact h.symm⟩)
    · exact .inr (.inr ⟨_, by assumption, by injection h with h; exact h.symm⟩)
  · cases h

/-- A host read changes no register: one answer, and the free bytes it used up. -/
theorem hostRead_next {r : ReadSel} {s t : State} (h : hostRead r s = .next t) :
    ∃ n a, t = { s with fresh := s.fresh + n, res := s.res ++ [.readback a] } := by
  have hslot : ∀ {sel k}, readSlot sel k s = .next t →
      ∃ n a, t = { s with fresh := s.fresh + n, res := s.res ++ [.readback a] } := by
    intro sel k h
    unfold readSlot at h
    split at h
    · injection h with h
      refine ⟨if s.busy then (s.slot sel).raw.length else 0, k (slotBytes sel s), h.symm.trans ?_⟩
      simp only [State.answer, State.afterSlotRead]
      split <;> rfl
    · cases h
  have hplain : ∀ {a}, Host.Outcome.next (ρ := Refusal) (φ := Fault) (s.answer a) = .next t →
      ∃ n a, t = { s with fresh := s.fresh + n, res := s.res ++ [.readback a] } := by
    intro a h
    injection h with h
    exact ⟨0, a, h.symm⟩
  cases r <;> simp only [hostRead] at h
  case slotRaw sel i => split at h; exact hslot h; cases h
  case lastMsg => split at h; exact hplain h; cases h
  all_goals first | exact hplain h | exact hslot h

/-- A configuration write. -/
theorem hostCfgWrite_next {w : CfgWrite} {s t : State} (h : hostCfgWrite w s = .next t) :
    s.busy = false ∧ ∃ c, applyCfgWrite s.cfg w = some c ∧ t = { s with cfg := c } := by
  unfold hostCfgWrite at h
  split at h
  · cases h
  · refine ⟨by simp_all, ?_⟩
    split at h
    · rename_i c hc; exact ⟨c, hc, by injection h with h; exact h.symm⟩
    · cases h

/-- A configuration write keeps the tables canonical and the build-time layouts. -/
theorem applyCfgWrite_wf {c d : Cfg} {w : CfgWrite} (h : applyCfgWrite c w = some d) (hr : LenTable.wf c.retLen = true)
    (hc : LenTable.wf c.cmdLen = true) : LenTable.wf d.retLen = true ∧ LenTable.wf d.cmdLen = true := by
  cases w with
  | lenTable cls id valid len =>
    simp only [applyCfgWrite] at h
    split at h
    · rename_i hl
      injection h with h
      subst h
      cases cls
      · exact ⟨hr, LenTable.set_wf hc id.isLt hl⟩
      · exact ⟨LenTable.set_wf hr id.isLt hl, hc⟩
    · cases h
  | _ =>
    injection h with h
    subst h
    exact ⟨hr, hc⟩

end Sys2Proof.Machine
end

