-- ==== Sys2Proof/Laws/PerInstr.lean ====
section
/-! SUPPORT. The encoding round trip, instruction by instruction: decoding an operation's word gives the operation back,
under every configuration. -/

namespace Sys2Proof.Laws.RoundTrip

open Sys2Proof Sys2Proof.Machine

/-- The word of a well-formed operation decodes to it. -/
def Statement (i : Instr) : Prop := ∀ cfg : Cfg, i.wf cfg = true → decode cfg (encode cfg i) = .ok i

/-! The operand bytes. -/

theorem natOfDigits_digitsOfNat (fuel v : Nat) (h : v ≤ fuel) : natOfDigits (digitsOfNat fuel v) = v := by
  induction fuel generalizing v with
  | zero => simp_all [digitsOfNat, natOfDigits]
  | succ n ih =>
    unfold digitsOfNat
    split
    · simp_all [natOfDigits]
    · rw [natOfDigits, ih (v / 256) (by omega), BitVec.toNat_ofNat]
      omega

theorem decodePayload_encodePayload (p : Payload) : decodePayload (encodePayload p) = some p := by
  match p with
  | .absent => rfl
  | .int (.ofNat n) =>
    show some (Payload.int ((natOfDigits (digitsOfNat n n) : Nat) : Int)) = some (.int (.ofNat n))
    rw [natOfDigits_digitsOfNat n n (Nat.le_refl n)]; rfl
  | .int (.negSucc n) =>
    show some (Payload.int (-((natOfDigits (digitsOfNat n n) : Nat) : Int) - 1)) = some (.int (.negSucc n))
    rw [natOfDigits_digitsOfNat n n (Nat.le_refl n), Int.negSucc_eq]; congr 2; omega
  | .bytes b => rfl

theorem decodeClass_encodeClass (c : MsgClass) : decodeClass (encodeClass c) = some c := by cases c <;> rfl

/-! Frames. -/

/-- A frame taken apart gives its row back, chosen by direction, identifier and length (R84). -/
theorem decodeFrameWord_frameBytes (cfg : Cfg) (cls : MsgClass) (addr cmd : Byte) (p : List Byte) (tr : Trailer)
    (hp : p.length ≤ 255) :
    decodeFrameWord cfg cls (frameBytes cfg.header addr cmd p tr) = frameInstr cfg cls addr cmd p tr := by
  have hl : (BitVec.ofNat 8 p.length).toNat = p.length := by rw [BitVec.toNat_ofNat]; omega
  simp [decodeFrameWord, frameBytes, hl, decodeTrailer]

/-! One lemma per constructor. -/


theorem frameSeedStatus (addr : Byte) (payload : List Byte) (tr : Trailer) : Statement (.frameSeedStatus addr payload tr) :=
  by
  intro cfg h
  have hp : payload.length = seedPayLen := by simpa [Instr.wf] using h
  show decodeFrameWord cfg .ret (frameBytes cfg.header addr seedStatusId payload tr) = _
  rw [decodeFrameWord_frameBytes _ _ _ _ _ _ (by rw [hp]; decide)]
  simp [frameInstr, hp]

theorem frameAmpStatus (addr : Byte) (payload : List Byte) (tr : Trailer) : Statement (.frameAmpStatus addr payload tr) :=
  by
  intro cfg h
  have hp : payload.length = ampPayLen := by simpa [Instr.wf] using h
  show decodeFrameWord cfg .ret (frameBytes cfg.header addr cfg.ampStatusId payload tr) = _
  rw [decodeFrameWord_frameBytes _ _ _ _ _ _ (by rw [hp]; decide)]
  simp [frameInstr, hp]

theorem frameRet (addr : Byte) (cmd : Byte) (payload : List Byte) (tr : Trailer) : Statement (.frameRet addr cmd payload tr) :=
  by
  intro cfg h
  simp only [Instr.wf, Bool.and_eq_true, decide_eq_true_eq, Bool.not_eq_true', Bool.and_eq_false_imp, beq_iff_eq,
    beq_eq_false_iff_ne] at h
  show decodeFrameWord cfg .ret (frameBytes cfg.header addr cmd payload tr) = _
  rw [decodeFrameWord_frameBytes _ _ _ _ _ _ h.1.1]
  have h1 : ¬(cmd = seedStatusId ∧ payload.length = seedPayLen) := fun hc => h.1.2 hc.1 hc.2
  have h2 : ¬(cmd = cfg.ampStatusId ∧ payload.length = ampPayLen) := fun hc => h.2 hc.1 hc.2
  simp only [frameInstr, h1, h2, if_false]

theorem frameCmd (addr : Byte) (cmd : Byte) (payload : List Byte) (tr : Trailer) : Statement (.frameCmd addr cmd payload tr) :=
  by
  intro cfg h
  have hp : payload.length ≤ maxPay := by simpa [Instr.wf] using h
  show decodeFrameWord cfg .command (frameBytes cfg.header addr cmd payload tr) = _
  rw [decodeFrameWord_frameBytes _ _ _ _ _ _ (hp.trans (by decide))]
  simp [frameInstr, hp]

theorem rxByte (b : Byte) : Statement (.rxByte b) := fun _ _ => rfl

theorem rxOverrun (x : Byte) : Statement (.rxOverrun x) := fun _ _ => rfl

theorem rxFatal (x : Byte) : Statement (.rxFatal x) := fun _ _ => rfl

theorem rxTimeout (x : Byte) : Statement (.rxTimeout x) := fun _ _ => rfl

theorem chk (p : List Byte) : Statement (.chk p) := fun _ _ => rfl

theorem xorchk (p : List Byte) : Statement (.xorchk p) := fun _ _ => rfl

theorem encodeOp (cls : MsgClass) (cmd : Byte) (addr : Byte) (payload : Payload) : Statement (.encodeOp cls cmd addr payload) := fun cfg _ => by
  show decodeEncodeOperands 0x03 (encodeClass cls :: cmd :: addr :: encodePayload payload) = _
  simp [decodeEncodeOperands, decodeClass_encodeClass, decodePayload_encodePayload]

theorem decodeOp (cls : MsgClass) (expected : Byte) (raw : List Byte) : Statement (.decodeOp cls expected raw) := fun cfg _ => by
  show decodeDecodeOperands 0x04 (encodeClass cls :: expected :: raw) = _
  simp [decodeDecodeOperands, decodeClass_encodeClass]

theorem recv : Statement (.recv) := fun _ _ => rfl

theorem drain : Statement (.drain) := fun _ _ => rfl

theorem await (id : Byte) : Statement (.await id) := fun _ _ => rfl

theorem send (cmd : Byte) (addr : Byte) (payload : Payload) : Statement (.send cmd addr payload) := fun cfg _ => by
  show decodeSendOperands 0x08 (cmd :: addr :: encodePayload payload) = _
  simp [decodeSendOperands, decodePayload_encodePayload]

theorem ampdec (p : List Byte) : Statement (.ampdec p) := fun _ _ => rfl

theorem seeddec (p : List Byte) : Statement (.seeddec p) := fun _ _ => rfl

theorem ampStable (p : List Byte) : Statement (.ampStable p) := fun _ _ => rfl

theorem ampSysstat (p : List Byte) : Statement (.ampSysstat p) := fun _ _ => rfl

theorem ampDrvunlock (p : List Byte) : Statement (.ampDrvunlock p) := fun _ _ => rfl

theorem ampDrvcur (p : List Byte) : Statement (.ampDrvcur p) := fun _ _ => rfl

theorem ampPdval (p : List Byte) : Statement (.ampPdval p) := fun _ _ => rfl

theorem ampPdstat (p : List Byte) : Statement (.ampPdstat p) := fun _ _ => rfl

theorem ampTemp (p : List Byte) : Statement (.ampTemp p) := fun _ _ => rfl

theorem seedTset (p : List Byte) : Statement (.seedTset p) := fun _ _ => rfl

theorem seedTact (p : List Byte) : Statement (.seedTact p) := fun _ _ => rfl

theorem seedTdiode (p : List Byte) : Statement (.seedTdiode p) := fun _ _ => rfl

theorem seedIset (p : List Byte) : Statement (.seedIset p) := fun _ _ => rfl

theorem seedIact (p : List Byte) : Statement (.seedIact p) := fun _ _ => rfl

theorem seedPiezo (p : List Byte) : Statement (.seedPiezo p) := fun _ _ => rfl

theorem seedWavelen (p : List Byte) : Statement (.seedWavelen p) := fun _ _ => rfl

theorem seedPower (p : List Byte) : Statement (.seedPower p) := fun _ _ => rfl

theorem seedEmission (p : List Byte) : Statement (.seedEmission p) := fun _ _ => rfl

theorem seedRunh (p : List Byte) : Statement (.seedRunh p) := fun _ _ => rfl

theorem seedRunm (p : List Byte) : Statement (.seedRunm p) := fun _ _ => rfl

theorem seedGrating (p : List Byte) : Statement (.seedGrating p) := fun _ _ => rfl

theorem fieldAmpStable (c : List Byte) : Statement (.fieldAmpStable c) := fun cfg h => by
  simp only [Instr.wf, beq_iff_eq] at h
  simp [decode, encode, h, fieldInstr]

theorem fieldAmpSysstat (c : List Byte) : Statement (.fieldAmpSysstat c) := fun cfg h => by
  simp only [Instr.wf, beq_iff_eq] at h
  simp [decode, encode, h, fieldInstr]

theorem fieldAmpDrvunlock (c : List Byte) : Statement (.fieldAmpDrvunlock c) := fun cfg h => by
  simp only [Instr.wf, beq_iff_eq] at h
  simp [decode, encode, h, fieldInstr]

theorem fieldAmpDrvcur (c : List Byte) : Statement (.fieldAmpDrvcur c) := fun cfg h => by
  simp only [Instr.wf, beq_iff_eq] at h
  simp [decode, encode, h, fieldInstr]

theorem fieldAmpPdval (c : List Byte) : Statement (.fieldAmpPdval c) := fun cfg h => by
  simp only [Instr.wf, beq_iff_eq] at h
  simp [decode, encode, h, fieldInstr]

theorem fieldAmpPdstat (c : List Byte) : Statement (.fieldAmpPdstat c) := fun cfg h => by
  simp only [Instr.wf, beq_iff_eq] at h
  simp [decode, encode, h, fieldInstr]

theorem fieldAmpTemp (c : List Byte) : Statement (.fieldAmpTemp c) := fun cfg h => by
  simp only [Instr.wf, beq_iff_eq] at h
  simp [decode, encode, h, fieldInstr]

theorem fieldSeedTset (c : List Byte) : Statement (.fieldSeedTset c) := fun cfg h => by
  simp only [Instr.wf, beq_iff_eq] at h
  simp [decode, encode, h, fieldInstr]

theorem fieldSeedTact (c : List Byte) : Statement (.fieldSeedTact c) := fun cfg h => by
  simp only [Instr.wf, beq_iff_eq] at h
  simp [decode, encode, h, fieldInstr]

theorem fieldSeedTdiode (c : List Byte) : Statement (.fieldSeedTdiode c) := fun cfg h => by
  simp only [Instr.wf, beq_iff_eq] at h
  simp [decode, encode, h, fieldInstr]

theorem fieldSeedIset (c : List Byte) : Statement (.fieldSeedIset c) := fun cfg h => by
  simp only [Instr.wf, beq_iff_eq] at h
  simp [decode, encode, h, fieldInstr]

theorem fieldSeedIact (c : List Byte) : Statement (.fieldSeedIact c) := fun cfg h => by
  simp only [Instr.wf, beq_iff_eq] at h
  simp [decode, encode, h, fieldInstr]

theorem fieldSeedPiezo (c : List Byte) : Statement (.fieldSeedPiezo c) := fun cfg h => by
  simp only [Instr.wf, beq_iff_eq] at h
  simp [decode, encode, h, fieldInstr]

theorem fieldSeedWavelen (c : List Byte) : Statement (.fieldSeedWavelen c) := fun cfg h => by
  simp only [Instr.wf, beq_iff_eq] at h
  simp [decode, encode, h, fieldInstr]

theorem fieldSeedPower (c : List Byte) : Statement (.fieldSeedPower c) := fun cfg h => by
  simp only [Instr.wf, beq_iff_eq] at h
  simp [decode, encode, h, fieldInstr]

theorem fieldSeedEmission (c : List Byte) : Statement (.fieldSeedEmission c) := fun cfg h => by
  simp only [Instr.wf, beq_iff_eq] at h
  simp [decode, encode, h, fieldInstr]

theorem fieldSeedRunh (c : List Byte) : Statement (.fieldSeedRunh c) := fun cfg h => by
  simp only [Instr.wf, beq_iff_eq] at h
  simp [decode, encode, h, fieldInstr]

theorem fieldSeedRunm (c : List Byte) : Statement (.fieldSeedRunm c) := fun cfg h => by
  simp only [Instr.wf, beq_iff_eq] at h
  simp [decode, encode, h, fieldInstr]

theorem fieldSeedGrating (c : List Byte) : Statement (.fieldSeedGrating c) := fun cfg h => by
  simp only [Instr.wf, beq_iff_eq] at h
  simp [decode, encode, h, fieldInstr]

theorem dispatchSeed (m : Message) : Statement (.dispatchSeed m) := fun cfg h => by
  simp only [Instr.wf, Bool.and_eq_true, beq_iff_eq, bne_iff_ne, ne_eq] at h
  show (if [m.command] = [m.command] then Except.ok (dispatchInstr cfg m) else _) = _
  rw [if_pos rfl, dispatchInstr, if_neg h.2, if_pos h.1]

theorem dispatchAmp (m : Message) : Statement (.dispatchAmp m) := fun cfg h => by
  simp only [Instr.wf, beq_iff_eq] at h
  simp [decode, encode, dispatchInstr, h]

theorem dispatchNone (m : Message) : Statement (.dispatchNone m) := fun cfg h => by
  simp only [Instr.wf, Bool.and_eq_true, bne_iff_ne, ne_eq] at h
  simp [decode, encode, dispatchInstr, h]

end Sys2Proof.Laws.RoundTrip
end

