-- ==== Sys2Proof/Laws/Step.lean ====
section
/-! SUPPORT. What a step can take: the cases of the fetch, and what the words fetched by the engine decode to. -/

namespace Sys2Proof.Machine

/-! The words the engine takes. -/

theorem decode_rxWord (cfg : Cfg) (w : RxWord) :
    decode cfg ⟨.rxev, rxWordBytes w⟩ =
      .ok (match w.toNat / 256 with
        | 0 => .rxByte (BitVec.ofNat 8 (w.toNat % 256))
        | 1 => .rxOverrun (BitVec.ofNat 8 (w.toNat % 256))
        | 2 => .rxFatal (BitVec.ofNat 8 (w.toNat % 256))
        | _ => .rxTimeout (BitVec.ofNat 8 (w.toNat % 256))) := by
  have hw := w.isLt
  have hk : w.toNat / 256 < 4 := by omega
  have hb : (BitVec.ofNat 8 (w.toNat / 256)).toNat = w.toNat / 256 := by rw [BitVec.toNat_ofNat]; omega
  simp only [decode, rxWordBytes, decodeRxWord, hb]
  match h : w.toNat / 256, hk with
  | 0, _ => rfl
  | 1, _ => rfl
  | 2, _ => rfl
  | 3, _ => rfl

theorem decode_dispatchKey (cfg : Cfg) (m : Message) :
    decode cfg ⟨.dispatch m, [m.command]⟩ = .ok (dispatchInstr cfg m) := by simp [decode]

/-- What an RX event word stands for. -/
def rxInstr (w : RxWord) : Instr :=
  match w.toNat / 256 with
  | 0 => .rxByte (BitVec.ofNat 8 (w.toNat % 256))
  | 1 => .rxOverrun (BitVec.ofNat 8 (w.toNat % 256))
  | 2 => .rxFatal (BitVec.ofNat 8 (w.toNat % 256))
  | _ => .rxTimeout (BitVec.ofNat 8 (w.toNat % 256))

theorem rxInstr_cases (w : RxWord) :
    (∃ b, rxInstr w = .rxByte b) ∨ (∃ b, rxInstr w = .rxOverrun b) ∨ (∃ b, rxInstr w = .rxFatal b) ∨
      ∃ b, rxInstr w = .rxTimeout b := by
  unfold rxInstr
  split
  · exact .inl ⟨_, rfl⟩
  · exact .inr (.inl ⟨_, rfl⟩)
  · exact .inr (.inr (.inl ⟨_, rfl⟩))
  · exact .inr (.inr (.inr ⟨_, rfl⟩))

/-! Only OP words stand for host operations. -/

theorem fetchWord_instr {p : Packet} {s s' : State} {i : Instr} (h : fetchWord p s = .instr i s') :
    decode s.cfg p = .ok i ∧ s' = s := by
  unfold fetchWord at h
  split at h
  · injection h with h1 h2; subst h1; exact ⟨by assumption, h2.symm⟩
  · cases h

theorem fetchWord_ne {p : Packet} {s : State} :
    (∀ a s', fetchWord p s ≠ .port a s') ∧ (∀ n s', fetchWord p s ≠ .avail n s') ∧ (∀ s', fetchWord p s ≠ .wait s') ∧
      ∀ f, fetchWord p s ≠ .stop f := by
  unfold fetchWord
  split <;> simp

/-- One step by the agent that moves, `s` being the state after the turn is taken. -/
inductive Takes (s : State) : StepResult → Prop
  | waits : Takes s (.next s)
  | op (w : List Byte) (rest : List HostAct) (i : Instr) : s.host = .op w :: rest → decode s.cfg ⟨.op, w⟩ = .ok i →
      Takes s (exec i { s with host := rest })
  | field (sel : FieldSel) (rest : List HostAct) (i : Instr) : s.host = .viewField sel :: rest →
      (s.slot (fieldSlot sel)).valid = true →
      decode s.cfg ⟨.field sel, fieldContainer s.cfg (slotBytes (fieldSlot sel) s) sel⟩ = .ok i →
      Takes s (exec i (({ s with host := rest } : State).afterSlotRead (fieldSlot sel)))
  | port (a : PortAct) (rest : List HostAct) : s.host = .port a :: rest → Takes s (hostPort a { s with host := rest })
  | replay (b : Byte) (rest : List Byte) : s.ctl = .rx → s.replay = b :: rest →
      Takes s (exec (.rxByte b) { s with replay := rest })
  | event (w : RxWord) (rest : List RxWord) : s.ctl = .rx → s.replay = [] → s.rx = w :: rest →
      Takes s (exec (rxInstr w) { s with rx := rest, consumed := s.consumed + 1 })
  | avail (n : Nat) (rest : List Nat) : s.ctl = .avail → s.avail = n :: rest →
      Takes s (availAnswer n { s with avail := rest })
  | frame (raw : List Byte) (i : Instr) : s.ctl = .frame raw → decode s.cfg ⟨.frame .ret, raw⟩ = .ok i →
      Takes s (exec i s)
  | dispatch (m : Message) : s.ctl = .dispatch m → Takes s (exec (dispatchInstr s.cfg m) s)
  | tx (f : List Byte) (i : Instr) : s.ctl = .tx → s.run = .send f → s.txAns ≠ [] →
      decode s.cfg ⟨.frame .command, f⟩ = .ok i → Takes s (exec i s)
  | reject (r : Refusal) : Takes s (.refused r)
  | stop : s.ctl = .tx → (∀ f, s.run ≠ .send f) → Takes s (.fault .brokenSequence)

/-- What a fetched thing does. -/
def runFetch (f : Fetch) : StepResult :=
  match f with
  | .instr i s' => exec i s'
  | .port a s' => hostPort a s'
  | .avail n s' => availAnswer n s'
  | .wait s' => .next s'
  | .reject r => .refused r
  | .stop f => .fault f

theorem step_eq_runFetch (s : State) : step s = runFetch (fetch s) := by
  unfold step runFetch
  rfl

theorem runFetch_fetchWord (p : Packet) (s : State) :
    (∃ i, decode s.cfg p = .ok i ∧ runFetch (fetchWord p s) = exec i s) ∨
      ∃ r, runFetch (fetchWord p s) = .refused r := by
  cases h : decode s.cfg p with
  | ok i => exact .inl ⟨i, rfl, by simp [fetchWord, h, runFetch]⟩
  | error e => exact .inr ⟨.undecodable e, by simp [fetchWord, h, runFetch]⟩

theorem takes_host (s : State) : Takes s (runFetch (fetchHost s)) := by
  unfold fetchHost
  split
  · exact .waits
  · rename_i w rest hh
    rcases runFetch_fetchWord ⟨.op, w⟩ { s with host := rest } with ⟨i, hi, he⟩ | ⟨r, hr⟩
    · rw [he]; exact .op w rest i hh hi
    · rw [hr]; exact .reject r
  · rename_i sel rest hh
    unfold fetchField
    simp only
    split
    · rename_i hv
      rcases runFetch_fetchWord
        ⟨.field sel, fieldContainer s.cfg (slotBytes (fieldSlot sel) { s with host := rest }) sel⟩
        (({ s with host := rest } : State).afterSlotRead (fieldSlot sel)) with ⟨i, hi, he⟩ | ⟨r, hr⟩
      · rw [he]; exact .field sel rest i hh hv hi
      · rw [hr]; exact .reject r
    · exact .reject _
  · rename_i a rest hh
    exact .port a rest hh

theorem takes_engine (s : State) : Takes s (runFetch (fetchEngine s)) := by
  unfold fetchEngine
  split
  · exact .waits
  · rename_i hc
    unfold fetchByte
    split
    · rename_i b rest hr
      exact .replay b rest hc hr
    · rename_i hr
      split
      · exact .waits
      · rename_i w rest hx
        have := Takes.event w rest hc hr hx
        simp only [fetchWord, decode_rxWord, runFetch]
        exact this
  · rename_i hc
    split
    · exact .waits
    · rename_i n rest ha
      exact .avail n rest hc ha
  · rename_i raw hc
    rcases runFetch_fetchWord ⟨.frame .ret, raw⟩ s with ⟨i, hi, he⟩ | ⟨r, hr⟩
    · rw [he]; exact .frame raw i hc hi
    · rw [hr]; exact .reject r
  · rename_i m hc
    simp only [fetchWord, decode_dispatchKey, runFetch]
    exact .dispatch m hc
  · rename_i hc
    unfold fetchTx
    split
    · rename_i f hf
      split
      · exact .waits
      · rename_i ha
        rcases runFetch_fetchWord ⟨.frame .command, f⟩ s with ⟨i, hi, he⟩ | ⟨r, hr⟩
        · rw [he]; exact .tx f i hc hf ha hi
        · rw [hr]; exact .reject r
    · rename_i hf
      exact .stop hc hf

/-- A step is one move of one agent, after its turn is taken off `turns`. -/
theorem step_takes (s : State) : ∃ tu, Takes { s with turns := tu } (step s) := by
  rw [step_eq_runFetch]
  unfold fetch
  split
  · rename_i ht
    have hs : ({ s with turns := s.turns } : State) = s := rfl
    refine ⟨s.turns, ?_⟩
    rw [hs]
    split
    · exact takes_engine s
    · exact takes_host s
  · rename_i rest ht
    exact ⟨rest, takes_host _⟩
  · rename_i rest ht
    exact ⟨rest, takes_engine _⟩

/-! What the operations of each channel do to the state. -/

/-- All that a host operation `i` can do: end at once with a result, end at once with an error, or start the engine. -/
inductive OpStep (i : Instr) (s : State) : State → Prop
  | done (r : Result) (lw : Bool) : (s.lenWarn = true → lw = true) →
      OpStep i s (({ s with wstate := .idle, lenWarn := lw } : State).complete r)
  | error (e : ErrCode) (g : ErrInfo → ErrInfo) : e ≠ .none → isTransport e = false →
      OpStep i s (({ s with wstate := .idle } : State).raise e g)
  | recv : configured s = true → OpStep i s (s.begin .idle .recv .rx)
  | drain : configured s = true → OpStep i s (s.begin .idle .drain .avail)
  | await (id : Byte) : i = .await id → configured s = true → OpStep i s (({ s with awaitId := id } : State).begin .waiting .await .rx)
  | send (m : Message) (cmd addr : Byte) (p : Payload) : configured s = true →
      codecEncode s.cfg .command cmd addr p = .ok m → OpStep i s (s.begin .idle (.send m.commandBytes) .avail)

theorem decodeStatus_opStep {i : Instr} {want : Nat} {p : List Byte} {r : Result} {s t : State}
    (h : decodeStatus want p r s = .next t) : s.busy = false ∧ OpStep i s t := by
  obtain ⟨hb, ⟨-, rfl⟩ | ⟨-, rfl⟩⟩ := decodeStatus_next h
  · exact ⟨hb, .done r s.lenWarn id⟩
  · exact ⟨hb, .error _ _ (by decide) rfl⟩

theorem exec_op_next {i : Instr} {s t : State} (hi : (encode resetCfg i).chan = .op) (h : exec i s = .next t) :
    s.busy = false ∧ OpStep i s t := by
  cases i with
  | chk p =>
    simp only [exec, execChk] at h
    obtain ⟨hb, h⟩ := startPure_next h
    injection h with h; subst h
    exact ⟨hb, .done _ s.lenWarn id⟩
  | xorchk p =>
    simp only [exec, execXorchk] at h
    obtain ⟨hb, h⟩ := startPure_next h
    injection h with h; subst h
    exact ⟨hb, .done _ s.lenWarn id⟩
  | encodeOp cls cmd addr p =>
    simp only [exec, execEncodeOp] at h
    obtain ⟨hb, h⟩ := startPure_next h
    split at h
    · cases h
    · injection h with h; subst h
      exact ⟨hb, .done _ s.lenWarn id⟩
  | decodeOp cls expected raw =>
    simp only [exec, execDecodeOp] at h
    obtain ⟨hb, h⟩ := startPure_next h
    split at h
    · cases h
    · rename_i e he
      injection h with h; subst h
      have := codecDecode_error_not_transport he
      exact ⟨hb, .error _ _ this.2 this.1⟩
    · rename_i m hm
      injection h with h; subst h
      exact ⟨hb, .done _ (s.lenWarn || m.warn) (fun h => by simp [h])⟩
  | recv =>
    simp only [exec, execRecv] at h
    obtain ⟨hb, hc, h⟩ := startEngine_next h
    injection h with h; subst h
    exact ⟨hb, .recv hc⟩
  | drain =>
    simp only [exec, execDrain] at h
    obtain ⟨hb, hc, h⟩ := startEngine_next h
    injection h with h; subst h
    exact ⟨hb, .drain hc⟩
  | await id =>
    simp only [exec, execAwait] at h
    obtain ⟨hb, hc, h⟩ := startEngine_next h
    injection h with h; subst h
    exact ⟨hb, .await id rfl hc⟩
  | send cmd addr p =>
    obtain ⟨hb, hc, m, hm, rfl⟩ := execSend_next h
    exact ⟨hb, .send m cmd addr p hc hm⟩
  | ampdec | seeddec | ampStable | ampSysstat | ampDrvunlock | ampDrvcur | ampPdval | ampPdstat | ampTemp | seedTset
  | seedTact | seedTdiode | seedIset | seedIact | seedPiezo | seedWavelen | seedPower | seedEmission | seedRunh | seedRunm
  | seedGrating => exact decodeStatus_opStep h
  | _ => cases hi

/-- A FIELD row answers one value and changes no register. -/
theorem exec_field_next {i : Instr} {s t : State} {sel : FieldSel} (hi : (encode resetCfg i).chan = .field sel)
    (h : exec i s = .next t) : ∃ r, t = { s with res := s.res ++ [.readback r] } := by
  cases i with
  | fieldAmpStable | fieldAmpSysstat | fieldAmpDrvunlock | fieldAmpDrvcur | fieldAmpPdval | fieldAmpPdstat | fieldAmpTemp
  | fieldSeedTset | fieldSeedTact | fieldSeedTdiode | fieldSeedIset | fieldSeedIact | fieldSeedPiezo | fieldSeedWavelen
  | fieldSeedPower | fieldSeedEmission | fieldSeedRunh | fieldSeedRunm | fieldSeedGrating =>
    exact ⟨_, (evalField_next h).2⟩
  | _ => cases hi

/-- An OP word decodes to a host operation. -/
theorem decodeOpWord_chan {w : List Byte} {i : Instr} (h : decodeOpWord w = .ok i) : (encode resetCfg i).chan = .op := by
  unfold decodeOpWord at h
  split at h
  · cases h
  · rename_i code rest
    split at h
    case h_3 =>
      unfold decodeEncodeOperands at h
      repeat' split at h
      all_goals cases h
      rfl
    case h_4 =>
      unfold decodeDecodeOperands at h
      repeat' split at h
      all_goals cases h
      rfl
    case h_7 =>
      unfold decodeAwaitOperand at h
      split at h <;> cases h
      rfl
    case h_8 =>
      unfold decodeSendOperands at h
      repeat' split at h
      all_goals cases h
      rfl
    case h_5 | h_6 => unfold noOperand at h; split at h <;> cases h; rfl
    all_goals cases h
    all_goals rfl

/-- A FIELD word decodes to its own row. -/
theorem decode_field {cfg : Cfg} {sel : FieldSel} {c : List Byte} {i : Instr} (h : decode cfg ⟨.field sel, c⟩ = .ok i) :
    c.length = fieldSize cfg sel ∧ i = fieldInstr c sel := by
  simp only [decode] at h
  split at h
  · exact ⟨by assumption, by injection h with h; exact h.symm⟩
  · cases h

theorem fieldInstr_chan (c : List Byte) (sel : FieldSel) : (encode resetCfg (fieldInstr c sel)).chan = .field sel := by
  cases sel <;> rfl

end Sys2Proof.Machine
end

