-- ==== Sys2Proof/Tests/Slice0.lean ====
section
/-! SUPPORT. Tests: ill-formed terms, words written out from the encodings, single steps against the vectors of
95_test_vectors.md (each test names its vector or the rule its numbers are worked out from), and for every statement
with hypotheses a witness that meets them. -/

namespace Sys2Proof.Tests

open Sys2Proof Sys2Proof.Machine Sys2Proof.Claims

/-! The vectors' bytes. -/

/-- Bytes from numbers. -/
def hex (l : List Nat) : List Byte := l.map (BitVec.ofNat 8)

/-- Frame V1, the source's seed status frame. -/
def v1 : List Byte :=
  hex ([0x50, 0x00, 0x64, 0xB7, 0x28, 0x61, 0xA8, 0x61, 0xA8, 0x01, 0xF4, 0x00, 0x00, 0x00, 0x00, 0x00]
    ++ [0x00, 0x00, 0x00, 0x00, 0x61, 0xC9, 0x00, 0x61, 0xFF, 0x00, 0x00, 0x00, 0x00, 0x16, 0x00, 0x00]
    ++ [0x03, 0x52, 0x0B, 0x00, 0xA5, 0xD2, 0x79, 0x00, 0x00, 0x00, 0x01, 0x00, 0x00, 0x3B, 0x7B, 0x0D, 0x0A])

/-- Payload V2, the source's amplifier status literal. -/
def v2 : List Byte :=
  hex (List.replicate 35 0 ++ [0xBF, 0x12, 0x1B, 0xED, 0x71, 0xD9, 0x2D, 0x7D, 0x4A, 0xE6, 0x67, 0x55, 0x9F]
    ++ [0xA4, 0x82, 0x32, 0x71, 0x3A, 0x00, 0x40, 0x9D, 0x73, 0xD8, 0x58, 0xE6, 0x20, 0x21, 0x1B, 0xF2])

/-- Payload Q of section 2.6. -/
def vq : List Byte :=
  hex ([0x01, 0x00, 0x00, 0x01, 0x4B, 0x00, 0x00, 0x00, 0x64, 0x01, 0xF4, 0xFF, 0xFF, 0x00, 0x00, 0x00]
    ++ [0x00, 0x00, 0x00, 0x00, 0x00, 0x00, 0x00, 0x00, 0x00, 0x00, 0x00, 0x00, 0x00, 0x01, 0x00, 0x02]
    ++ [0x12, 0x34, 0xFF, 0xFF, 0x7F, 0x00, 0x10, 0x0F, 0x00, 0x00, 0x09, 0xC4, 0x00, 0x00, 0xFF, 0xFF]
    ++ [0x0B, 0xB8] ++ List.replicate 14 0)

/-- Frame ACK. -/
def ack : List Byte := hex [0x50, 0x00, 0x64, 0xC1, 0x01, 0x01, 0x27, 0xA5, 0x0D, 0x0A]

/-- Frame CMD1. -/
def cmd1 : List Byte := hex [0x50, 0x00, 0x64, 0x30, 0x01, 0x01, 0x96, 0x54, 0x0D, 0x0A]

/-! Small machines. -/

/-- A seed layout with open fields of a width that shows: piezo two bytes at 6, emission bit 0 of byte 30, two gratings. -/
def testSeed : BuiltSeedLayout := ⟨seedLayoutWith ⟨6, 2, 1, 1⟩ ⟨30, 0x01⟩ [⟨8, 2, 1, 2⟩, ⟨10, 1, 1, 0⟩], by decide⟩

/-- The vectors' configuration. -/
def testCfg : Cfg :=
  { resetCfg with
    addr := 0x64, addrWritten := true, ampStatusId := 0xA0, ampIdWritten := true, seed := testSeed,
    retLen := [(0xA0, ⟨true, 64⟩), (0xB7, ⟨true, 40⟩), (0xC1, ⟨true, 1⟩)],
    cmdLen := [(0x04, ⟨true, 0⟩), (0x30, ⟨true, 1⟩), (0xA5, ⟨true, 2⟩)] }

/-- Brought up, nothing running. -/
def idle : State := { State.reset with cfg := testCfg }

/-- The same under another table or byte order. -/
def idleWith (c : Cfg) : State := { idle with cfg := c }

/-- RECV runs and waits for its next byte, `buf` assembled. -/
def receiving (buf : List Byte) : State := { idle with busy := true, run := .recv, ctl := .rx, buf := buf }

/-- RECV runs and a Message waits for DISPATCH. -/
def dispatching (m : Message) : State := { idle with busy := true, run := .recv, ctl := .dispatch m }

/-- SEND has drained and waits for the answer to its write. -/
def sending (ok : Bool) : State := { idle with busy := true, run := .send cmd1, ctl := .tx, txAns := [ok] }

/-- A received Message. -/
def msg (cmd : Byte) (p : Option (List Byte)) : Message :=
  { messageAtReset with cls := .ret, command := cmd, address := 0x64, payload := p }

/-- The trailer of a frame. -/
def trailer (c x : Byte) : Trailer := ⟨c, x, 0x0D, 0x0A⟩

/-- The outcome is a next state with a property. -/
def holds (o : StepResult) (p : State → Bool) : Bool :=
  match o with
  | .next t => p t
  | _ => false

/-- The outcome is a refusal. -/
def refusedAs (o : StepResult) (r : Refusal) : Bool :=
  match o with
  | .refused q => decide (q = r)
  | _ => false

/-- The operation has ended with an error code and a result. -/
def done (o : StepResult) (e : ErrCode) (r : Result) : Bool :=
  holds o fun t => decide (t.res = [.opDone e r]) && decide (t.err = e) && !t.busy && decide (t.ctl = .idle)

/-- A field evaluation has answered. -/
def answered (o : StepResult) (r : Result) : Bool := holds o fun t => decide (t.res = [.readback r])

/-- The result is a Message with a property. -/
def doneMessage (o : StepResult) (p : Message → Bool) : Bool :=
  holds o fun t =>
    match t.res with
    | [.opDone .none (.message m)] => p m
    | _ => false

/-! Well-formedness: an ill-formed term for each check. -/

/-- R80, R84: a seed status frame has 40 payload bytes. -/
theorem test_wf_frameSeedStatus : (Instr.frameSeedStatus 0x64 (hex [1]) (trailer 0 0)).wf testCfg = false := by decide
/-- R80, R84: an amplifier status frame has 64 payload bytes. -/
theorem test_wf_frameAmpStatus : (Instr.frameAmpStatus 0x64 (hex [1]) (trailer 0 0)).wf testCfg = false := by decide
/-- R80: the length byte is at most 255. -/
theorem test_wf_frameRet_long :
    (Instr.frameRet 0x64 0xC1 (List.replicate 256 0) (trailer 0 0)).wf testCfg = false := by decide +kernel
/-- R84: a frame of identifier 0xB7 and 40 bytes is FRAME.SEED_STATUS, not FRAME.RET. -/
theorem test_wf_frameRet_seed :
    (Instr.frameRet 0x64 0xB7 (List.replicate 40 0) (trailer 0 0)).wf testCfg = false := by decide
/-- R84: a frame of the amplifier's identifier and 64 bytes is FRAME.AMP_STATUS. -/
theorem test_wf_frameRet_amp :
    (Instr.frameRet 0x64 0xA0 (List.replicate 64 0) (trailer 0 0)).wf testCfg = false := by decide
/-- R6: a command frame carries at most 64 bytes. -/
theorem test_wf_frameCmd : (Instr.frameCmd 0x64 0x30 (List.replicate 65 0) (trailer 0 0)).wf testCfg = false := by decide
/-- R95: a FIELD row of any field with one byte too many. -/
theorem test_wf_field :
    [FieldSel.ampStable, .ampSysstat, .ampDrvunlock, .ampDrvcur, .ampPdval, .ampPdstat, .ampTemp, .seedTset, .seedTact,
      .seedTdiode, .seedIset, .seedIact, .seedPiezo, .seedWavelen, .seedPower, .seedEmission, .seedRunh, .seedRunm,
      .seedGrating].all (fun sel =>
        !(fieldInstr (List.replicate (fieldSize testCfg sel + 1) 0) sel).wf testCfg) = true := by decide
/-- R180: the DISPATCH row must be the one the command byte chooses. -/
theorem test_wf_dispatch :
    (Instr.dispatchSeed (msg 0xC1 none)).wf testCfg = false ∧ (Instr.dispatchAmp (msg 0xB7 none)).wf testCfg = false ∧
      (Instr.dispatchNone (msg 0xA0 none)).wf testCfg = false ∧ (Instr.dispatchNone (msg 0xB7 none)).wf testCfg = false := by
  decide

/-! Decoding: words written out from the encodings of spec/opcode_table.json. -/

/-- FRAME.SEED_STATUS: `0101000000000000 aaaaaaaa 10110111 00101000`, 40 payload bytes, trailer (V1). -/
theorem test_decode_frameSeedStatus :
    decode testCfg ⟨.frame .ret, v1⟩ = .ok (.frameSeedStatus 0x64 seedExample (trailer 0x3B 0x7B)) := by decide +kernel
/-- FRAME.AMP_STATUS: identifier `AMP_STATUS_ID` = 0xA0, length `01000000` (AMPF). -/
theorem test_decode_frameAmpStatus :
    decode testCfg ⟨.frame .ret, hex [0b01010000, 0, 0x64, 0xA0, 0b01000000] ++ v2 ++ hex [0x53, 0x59, 0x0D, 0x0A]⟩ =
      .ok (.frameAmpStatus 0x64 v2 (trailer 0x53 0x59)) := by decide +kernel
/-- FRAME.RET: `0101000000000000 aaaaaaaa kkkkkkkk llllllll` received (ACK). -/
theorem test_decode_frameRet :
    decode testCfg ⟨.frame .ret, ack⟩ = .ok (.frameRet 0x64 0xC1 (hex [0x01]) (trailer 0x27 0xA5)) := by decide
/-- FRAME.CMD: the same pattern transmitted (CMD1). -/
theorem test_decode_frameCmd :
    decode testCfg ⟨.frame .command, cmd1⟩ = .ok (.frameCmd 0x64 0x30 (hex [0x01]) (trailer 0x96 0x54)) := by decide
/-- RXEV: `00bbbbbbbb`, `01xxxxxxxx`, `10xxxxxxxx`, `11xxxxxxxx` (R41). -/
theorem test_decode_rxev :
    [(0b0001010000#10, Instr.rxByte 0x50), (0b0111111111#10, .rxOverrun 0xFF), (0b1000000001#10, .rxFatal 0x01),
      (0b1110000000#10, .rxTimeout 0x80)].all
      (fun x => decide (decode testCfg ⟨.rxev, rxWordBytes x.1⟩ = .ok x.2)) = true := by decide
/-- OP: the codes of R42, with operands. -/
theorem test_decode_op :
    [([0b00000001#8, 1, 2], Instr.chk [1, 2]), ([0b00000010#8, 3], .xorchk [3]),
      ([0b00000011#8, 0, 0xA5, 0x64, 1, 0x34, 0x12], .encodeOp .command 0xA5 0x64 (.int 0x1234)),
      ([0b00000100#8, 1, 0x64, 0x50], .decodeOp .ret 0x64 [0x50]), ([0b00000101#8], .recv), ([0b00000110#8], .drain),
      ([0b00000111#8, 0xC1], .await 0xC1), ([0b00001000#8, 0x30, 0x64, 2, 7], .send 0x30 0x64 (.bytes [7])),
      ([0b00001001#8, 9], .ampdec [9]), ([0b00001010#8, 9], .seeddec [9])].all
      (fun x => decide (decode testCfg ⟨.op, x.1⟩ = .ok x.2)) = true := by decide
/-- OP: the extractors' codes of R42. -/
theorem test_decode_op_extractors :
    [([0b00010000#8], Instr.ampStable []), ([0b00010001#8], .ampSysstat []), ([0b00010010#8], .ampDrvunlock []),
      ([0b00010011#8], .ampDrvcur []), ([0b00010100#8], .ampPdval []), ([0b00010101#8], .ampPdstat []),
      ([0b00010110#8], .ampTemp []), ([0b00100000#8], .seedTset []), ([0b00100001#8], .seedTact []),
      ([0b00100010#8], .seedTdiode []), ([0b00100011#8], .seedIset []), ([0b00100100#8], .seedIact []),
      ([0b00100101#8], .seedPiezo []), ([0b00100110#8], .seedWavelen []), ([0b00100111#8], .seedPower []),
      ([0b00101000#8], .seedEmission []), ([0b00101001#8], .seedRunh []), ([0b00101010#8], .seedRunm []),
      ([0b00101011#8], .seedGrating [])].all
      (fun x => decide (decode testCfg ⟨.op, x.1⟩ = .ok x.2)) = true := by decide
/-- FIELD: the containers of R95, as wide as the layouts say. -/
theorem test_decode_field :
    [(FieldSel.ampStable, [1], Instr.fieldAmpStable [1]), (.ampSysstat, [1, 2], .fieldAmpSysstat [1, 2]),
      (.ampDrvunlock, [1], .fieldAmpDrvunlock [1]), (.ampDrvcur, [1, 2, 3, 4, 5, 6], .fieldAmpDrvcur [1, 2, 3, 4, 5, 6]),
      (.ampPdval, [1, 2, 3, 4, 5, 6, 7, 8, 9, 10], .fieldAmpPdval [1, 2, 3, 4, 5, 6, 7, 8, 9, 10]),
      (.ampPdstat, [1, 2, 3, 4], .fieldAmpPdstat [1, 2, 3, 4]),
      (.ampTemp, [1, 2, 3, 4, 5, 6, 7, 8], .fieldAmpTemp [1, 2, 3, 4, 5, 6, 7, 8]),
      (.seedTset, [1, 2], .fieldSeedTset [1, 2]), (.seedTact, [1, 2], .fieldSeedTact [1, 2]),
      (.seedTdiode, [1, 2], .fieldSeedTdiode [1, 2]), (.seedIset, [1, 2], .fieldSeedIset [1, 2]),
      (.seedIact, [1, 2], .fieldSeedIact [1, 2]), (.seedPiezo, [1, 2], .fieldSeedPiezo [1, 2]),
      (.seedWavelen, [1, 2, 3], .fieldSeedWavelen [1, 2, 3]), (.seedPower, [1], .fieldSeedPower [1]),
      (.seedEmission, [1], .fieldSeedEmission [1]), (.seedRunh, [1, 2], .fieldSeedRunh [1, 2]),
      (.seedRunm, [1], .fieldSeedRunm [1]), (.seedGrating, [1, 2, 3], .fieldSeedGrating [1, 2, 3])].all
      (fun x => decide (decode testCfg ⟨.field x.1, x.2.1⟩ = .ok x.2.2)) = true := by decide
/-- DISPATCH: the key is the command byte (R180). -/
theorem test_decode_dispatch :
    [(0b10110111#8, Instr.dispatchSeed (msg 0xB7 none)), (0xA0#8, .dispatchAmp (msg 0xA0 none)),
      (0xC1#8, .dispatchNone (msg 0xC1 none))].all
      (fun x => decide (decode testCfg ⟨.dispatch (msg x.1 none), [x.1]⟩ = .ok x.2)) = true := by decide
/-- R276, R80, R41: what is no word is rejected by name. -/
theorem test_decode_rejects :
    decode testCfg ⟨.op, [0x0B]⟩ = .error (.undefinedOpCode 0x0B) ∧ decode testCfg ⟨.op, []⟩ = .error .emptyWord ∧
      decode testCfg ⟨.op, [0x07]⟩ = .error (.badOperand 0x07) ∧ decode testCfg ⟨.rxev, [4, 0]⟩ = .error .badRxWord ∧
      decode testCfg ⟨.frame .ret, [0x50, 0, 0x64]⟩ = .error .frameTooShort ∧
      decode testCfg ⟨.frame .ret, 0x51 :: ack.drop 1⟩ = .error .frameHeader ∧
      decode testCfg ⟨.frame .ret, ack.set 1 1⟩ = .error .frameZero ∧
      decode testCfg ⟨.frame .ret, ack.set 4 2⟩ = .error .frameSize ∧
      decode testCfg ⟨.field .ampStable, []⟩ = .error .fieldSize ∧
      decode testCfg ⟨.dispatch (msg 0xB7 none), [0xB6]⟩ = .error .dispatchKey := by decide

/-! Single operations against the vectors. -/

/-- K4. -/
theorem test_chk : done (exec (.chk [1, 2, 3]) idle) .none (.byte 0x06) = true := by decide
/-- K2: the sum wraps. -/
theorem test_chk_wraps : done (exec (.chk [0xFF, 0x01]) idle) .none (.byte 0x00) = true := by decide
/-- K2. -/
theorem test_xorchk : done (exec (.xorchk [0xFF, 0x01]) idle) .none (.byte 0xFE) = true := by decide
/-- K8: the trailer of ACK. -/
theorem test_xorchk_ack : done (exec (.xorchk [0x00, 0x64, 0xC1, 0x01, 0x01]) idle) .none (.byte 0xA5) = true := by decide

/-- E10. -/
theorem test_encode :
    doneMessage (exec (.encodeOp .command 0xA5 0xFF (.int 0xFFFF)) idle) (fun m =>
      decide (m.commandBytes = hex [0x50, 0, 0xFF, 0xA5, 2, 0xFF, 0xFF, 0xA4, 0x58, 0x0D, 0x0A])) = true := by decide
/-- E5, E6, E7, E8, E11: the five refusals. -/
theorem test_encode_refuses :
    refusedAs (exec (.encodeOp .command 0xA5 0x64 (.int 0x10000)) idle) .doesNotFit &&
      refusedAs (exec (.encodeOp .command 0xA5 0x64 .absent) idle) .payloadRequired &&
      refusedAs (exec (.encodeOp .command 0x04 0x00 (.int 0)) idle) .noPayloadExpected &&
      refusedAs (exec (.encodeOp .command 0x05 0x00 .absent) idle) .unknownIdentifier &&
      refusedAs (exec (.encodeOp .command 0xA5 0x64 (.bytes [1])) idle) .wrongPayloadLength = true := by decide
/-- D16: one payload byte up, another down: the sum holds, the xor does not. -/
theorem test_decode_xorMismatch :
    done (exec (.decodeOp .ret 0x64 ((v1.set 5 0x62).set 7 0x60)) idle) .xorMismatch .nothing = true := by
  decide +kernel
/-- D20: the table says 38, the frame carries 40. -/
theorem test_decode_lengthMismatch :
    doneMessage (exec (.decodeOp .ret 0x64 v1) (idleWith { testCfg with retLen := [(0xB7, ⟨true, 38⟩)] })) (fun m =>
      m.warn && decide (m.payload = some (seedExample.take 38))) = true := by decide +kernel

/-- X5: a false start holds the two look-ahead bytes. -/
theorem test_rxByte_falseStart :
    holds (exec (.rxByte 0x65) (receiving [0x50, 0x00])) (fun t => decide (t.buf = [] ∧ t.replay = [0x00, 0x65])) = true := by
  decide
/-- X13 on frame ACK: the last byte decodes the frame and empties `BUF`. -/
theorem test_rxByte_completes :
    holds (exec (.rxByte 0x0A) (receiving (ack.take 9))) (fun t =>
      decide (t.buf = []) &&
        match t.ctl with
        | .dispatch m => decide (m.command = 0xC1 ∧ m.payload = some [0x01] ∧ m.warn = false)
        | _ => false) = true := by decide
/-- X14. -/
theorem test_rxOverrun_all :
    holds (exec (.rxOverrun 0) (receiving [0x50, 0x00])) (fun t => decide (t.buf = [0x50, 0x00]) && t.busy) = true := by
  decide
/-- X15. -/
theorem test_rxOverrun_huntOnly :
    done (exec (.rxOverrun 0) { receiving [0x50, 0x00] with cfg := { testCfg with overrunScope := .huntOnly } })
      .transportOverrun .nothing = true := by decide
/-- X18. -/
theorem test_rxFatal : done (exec (.rxFatal 0) (receiving [0x50, 0x00])) .transportFatal .nothing = true := by decide
/-- X17: the partial frame is dropped. -/
theorem test_rxTimeout :
    holds (exec (.rxTimeout 0) (receiving (v1.take 20))) (fun t => decide (t.err = .transportTimeout ∧ t.buf = [])) = true := by
  decide
/-- P1: V1 received is handed to DISPATCH with its payload. -/
theorem test_frameSeedStatus :
    holds (exec (.frameSeedStatus 0x64 seedExample (trailer 0x3B 0x7B)) (receiving [])) (fun t =>
      match t.ctl with
      | .dispatch m => decide (m.command = 0xB7 ∧ m.payload = some seedExample)
      | _ => false) = true := by decide +kernel
/-- P7 (b): AMPF received. -/
theorem test_frameAmpStatus :
    holds (exec (.frameAmpStatus 0x64 v2 (trailer 0x53 0x59)) (receiving [])) (fun t =>
      match t.ctl with
      | .dispatch m => decide (m.command = 0xA0 ∧ m.payload = some v2)
      | _ => false) = true := by decide +kernel
/-- P12: UNK's identifier is not in the table. -/
theorem test_frameRet_unknown :
    done (exec (.frameRet 0x64 0xB6 (hex [7]) (trailer 0x22 0xD4)) (receiving [])) .unknownCommand .nothing = true := by
  decide

/-- R160. -/
theorem test_recv : holds (exec .recv idle) (fun t => t.busy && decide (t.ctl = .rx ∧ t.wstate = .idle)) = true := by decide
/-- R302. -/
theorem test_recv_unconfigured : refusedAs (exec .recv State.reset) .unconfigured = true := by decide
/-- R184. -/
theorem test_drain : holds (exec .drain idle) (fun t => t.busy && decide (t.ctl = .avail)) = true := by decide
/-- R186. -/
theorem test_await :
    holds (exec (.await 0xC1) idle) (fun t => decide (t.wstate = .waiting ∧ t.awaitId = 0xC1 ∧ t.ctl = .rx)) = true := by
  decide
/-- R28. -/
theorem test_await_busy : refusedAs (exec (.await 0xC1) (receiving [])) .busy = true := by decide
/-- P8 (a): SEND holds CMD1 while it drains. -/
theorem test_send :
    holds (exec (.send 0x30 0x64 (.int 1)) idle) (fun t => decide (t.run = .send cmd1 ∧ t.ctl = .avail ∧ t.tx = [])) = true := by
  decide
/-- R188: ENCODE's refusals are SEND's (E8). -/
theorem test_send_refuses : refusedAs (exec (.send 0x05 0x64 .absent) idle) .unknownIdentifier = true := by decide
/-- P8 (a): one write of the whole frame. -/
theorem test_frameCmd : holds (step (sending true)) (fun t => decide (t.tx = [cmd1] ∧ t.err = .none)) = true := by decide
/-- R189. -/
theorem test_frameCmd_fails : done (step (sending false)) .transportFatal .nothing = true := by decide

/-- T1. -/
theorem test_dispatchSeed :
    holds (exec (.dispatchSeed (msg 0xB7 (some seedExample))) (dispatching (msg 0xB7 (some seedExample)))) (fun t =>
      decide (t.slotSeed = ⟨true, seedExample⟩) && !t.slotAmp.valid &&
        decide (t.res.head? = some (.slotUpdated .seed))) = true := by decide
/-- T6. -/
theorem test_dispatchSeed_absent :
    done (exec (.dispatchSeed (msg 0xB7 none)) (dispatching (msg 0xB7 none))) .payloadMissing .nothing = true := by decide
/-- T3. -/
theorem test_dispatchAmp :
    holds (exec (.dispatchAmp (msg 0xA0 (some v2))) (dispatching (msg 0xA0 (some v2)))) (fun t =>
      decide (t.slotAmp = ⟨true, v2⟩) && !t.slotSeed.valid) = true := by decide
/-- R181, as T5 for the amplifier: 63 bytes. -/
theorem test_dispatchAmp_wrongLength :
    done (exec (.dispatchAmp (msg 0xA0 (some (v2.take 63)))) (dispatching (msg 0xA0 (some (v2.take 63))))) .wrongLength
      .nothing = true := by decide
/-- T4: no slot, no slot event; RECV ends with the Message. -/
theorem test_dispatchNone :
    done (exec (.dispatchNone (msg 0xC1 (some [1]))) (dispatching (msg 0xC1 (some [1])))) .none
      (.message (msg 0xC1 (some [1]))) = true := by decide

/-- V2: PREC's literal. -/
theorem test_ampdec_v2 :
    holds (exec (.ampdec v2) idle) (fun t =>
      match t.res with
      | [.opDone .none (.ampStatus a)] =>
        decide (a.stable = false ∧ a.driverCurrent = [⟨0, 2⟩, ⟨0, 2⟩, ⟨0, 2⟩] ∧ a.pdValue = [0, 0, 0, 191, 4635] ∧
          a.temperatures = [⟨32074, 2⟩, ⟨58983, 2⟩, ⟨21919, 2⟩, ⟨42114, 2⟩])
      | _ => false) = true := by decide
/-- A7. -/
theorem test_ampdec_wrongLength : done (exec (.ampdec (v2.take 40)) idle) .wrongLength .nothing = true := by decide
/-- Q. -/
theorem test_ampStable : done (exec (.ampStable vq) idle) .none (.flag true) = true := by decide
/-- Q. -/
theorem test_ampSysstat :
    done (exec (.ampSysstat vq) idle) .none
      (.systemStatus ⟨[true, true, false, true], [false, false, true, false, true], true⟩) = true := by decide
/-- A3: an unassigned bit sets the fault. -/
theorem test_ampSysstat_unassigned :
    done (exec (.ampSysstat ((List.replicate 64 0).set 3 0x80)) idle) .none
      (.systemStatus ⟨[false, false, false, false], [false, false, false, false, false], true⟩) = true := by decide
/-- Q. -/
theorem test_ampDrvunlock :
    done (exec (.ampDrvunlock vq) idle) .none
      (.driverUnlock ⟨[true, true, false], [true, false, false], true⟩) = true := by decide
/-- Q. -/
theorem test_ampDrvcur :
    done (exec (.ampDrvcur vq) idle) .none (.scaledList [⟨100, 2⟩, ⟨500, 2⟩, ⟨65535, 2⟩]) = true := by decide
/-- Q. -/
theorem test_ampPdval : done (exec (.ampPdval vq) idle) .none (.numbers [1, 2, 4660, 65535, 32512]) = true := by decide
/-- Q: bytes `7F 00 10 0F`. -/
theorem test_ampPdstat :
    done (exec (.ampPdstat vq) idle) .none
      (.pdStatus [⟨true, true, true, true, true, true, true, true⟩, ⟨false, false, false, false, false, false, false, false⟩,
        ⟨false, false, false, false, true, false, false, true⟩, ⟨true, true, true, true, false, false, false, false⟩]) = true := by
  decide
/-- Q. -/
theorem test_ampTemp :
    done (exec (.ampTemp vq) idle) .none (.scaledList [⟨2500, 2⟩, ⟨0, 2⟩, ⟨65535, 2⟩, ⟨3000, 2⟩]) = true := by decide

/-- V1: the values PREC expects. -/
theorem test_seeddec_v1 :
    holds (exec (.seeddec seedExample) idle) (fun t =>
      match t.res with
      | [.opDone .none (.seedStatus d)] =>
        decide (d.temperatureAct = ⟨25087, 3⟩ ∧ d.temperatureDiode = ⟨25033, 3⟩ ∧ d.temperatureSet = ⟨25000, 3⟩ ∧
          d.currentSet = 500 ∧ d.currentAct = 22 ∧ d.piezoVoltage.raw = 0 ∧ d.wavelength = ⟨10867321, 4⟩ ∧ d.power = 1 ∧
          d.emission = false ∧ d.runHours = 850 ∧ d.runMinutes = 11)
      | _ => false) = true := by decide
/-- Wherever R238 lets the piezo field stand, it covers neither byte 2 nor byte 3 of `S`. -/
theorem test_s4_piezo :
    ∀ o, o < 41 → ∀ w, w < 5 → ((seedExample.drop o).take w).all (· == 0) = true →
      ((((seedExample.set 2 0).set 3 0).drop o).take w) = (seedExample.drop o).take w := by decide +kernel
/-- Wherever R241 lets the emission flag stand, it reads false on `S` and with bytes 2 and 3 cleared. -/
theorem test_s4_emission :
    ∀ o, o < 40 → ∀ m : Byte, (seedExample.getD o 0 &&& m) = 0 →
      (((seedExample.set 2 0).set 3 0).getD o 0 &&& m) = 0 := by decide +kernel
/-- S4 on the machine after reset, whatever its open parameters are: bytes 2 and 3 change nothing. -/
theorem test_seeddec_s4 : seedDecode resetCfg ((seedExample.set 2 0).set 3 0) = seedDecode resetCfg seedExample := by
  have hp := openPiezo_admissible
  have he := openEmission_admissible
  simp only [piezoAdmissible, emissionAdmissible, Bool.and_eq_true, decide_eq_true_eq, beq_iff_eq] at hp he
  have h1 : fieldSlice openPiezo ((seedExample.set 2 0).set 3 0) = fieldSlice openPiezo seedExample := by
    simp only [fieldSlice, hp.1.1.1.2, Nat.mul_one]
    have h40 : openPiezo.offset + openPiezo.width ≤ 40 := hp.1.2
    exact test_s4_piezo _ (by omega) _ (by omega) hp.2
  have h2 := test_s4_emission _ he.1.1 _ he.2
  have h3 : seedEmissionOf resetCfg (emissionSlice openEmission ((seedExample.set 2 0).set 3 0)) =
      seedEmissionOf resetCfg (emissionSlice openEmission seedExample) := by
    have hb : ∀ p : List Byte, byteAt (emissionSlice openEmission p) 0 = p.getD openEmission.offset 0 := by
      intro p; simp [byteAt, emissionSlice, List.getD_eq_getElem?_getD]
    show (byteAt _ 0 &&& openEmission.mask != 0) = (byteAt _ 0 &&& openEmission.mask != 0)
    rw [hb, hb, h2, he.2]
  have h4 : seedPiezoOf resetCfg (fieldSlice openPiezo ((seedExample.set 2 0).set 3 0)) =
      seedPiezoOf resetCfg (fieldSlice openPiezo seedExample) := by rw [h1]
  exact SeedStatus.mk.injEq .. ▸ ⟨rfl, rfl, rfl, rfl, rfl, h4, rfl, rfl, h3, rfl, rfl, rfl⟩
/-- S5. -/
theorem test_seeddec_wrongLength : done (exec (.seeddec (seedExample.take 39)) idle) .wrongLength .nothing = true := by decide
/-- S6: little-endian. -/
theorem test_seedTset_little :
    done (exec (.seedTset seedExample) (idleWith { testCfg with endian := .little })) .none (.scaled ⟨43105, 3⟩) = true := by
  decide
/-- V1. -/
theorem test_seedTact : done (exec (.seedTact seedExample) idle) .none (.scaled ⟨25087, 3⟩) = true := by decide
/-- V1. -/
theorem test_seedTdiode : done (exec (.seedTdiode seedExample) idle) .none (.scaled ⟨25033, 3⟩) = true := by decide
/-- V1. -/
theorem test_seedIset : done (exec (.seedIset seedExample) idle) .none (.number 500) = true := by decide
/-- V1. -/
theorem test_seedIact : done (exec (.seedIact seedExample) idle) .none (.number 22) = true := by decide
/-- R238 with the test layout (two bytes at 6, scale 1): `01 02` is raw 258. -/
theorem test_seedPiezo :
    done (exec (.seedPiezo ((seedExample.set 6 0x01).set 7 0x02)) idle) .none (.scaled ⟨258, 1⟩) = true := by decide
/-- S6: little-endian. -/
theorem test_seedWavelen_little :
    done (exec (.seedWavelen seedExample) (idleWith { testCfg with endian := .little })) .none (.scaled ⟨7983781, 4⟩) =
      true := by decide
/-- S3. -/
theorem test_seedPower : done (exec (.seedPower (List.replicate 40 0xFF)) idle) .none (.number 255) = true := by decide
/-- R241 with the test layout (bit 0 of byte 30): bits beside the mask do not count. -/
theorem test_seedEmission :
    done (exec (.seedEmission (seedExample.set 30 0x03)) idle) .none (.flag true) &&
      done (exec (.seedEmission (seedExample.set 30 0xFE)) idle) .none (.flag false) = true := by decide
/-- V1. -/
theorem test_seedRunh : done (exec (.seedRunh seedExample) idle) .none (.number 850) = true := by decide
/-- V1. -/
theorem test_seedRunm : done (exec (.seedRunm seedExample) idle) .none (.number 11) = true := by decide
/-- R244 with the test layout (two bytes at 8 scaled by 100, one at 10). -/
theorem test_seedGrating :
    done (exec (.seedGrating (((seedExample.set 8 0x02).set 9 0x01).set 10 0x07)) idle) .none
      (.scaledList [⟨513, 2⟩, ⟨7, 0⟩]) = true := by decide

/-- R95: the amplifier's containers of Q. -/
theorem test_field_amp :
    answered (exec (.fieldAmpStable [0x01]) idle) (.flag true) &&
      answered (exec (.fieldAmpSysstat [0x01, 0x4B]) idle)
        (.systemStatus ⟨[true, true, false, true], [false, false, true, false, true], true⟩) &&
      answered (exec (.fieldAmpDrvunlock [0x4B]) idle)
        (.driverUnlock ⟨[true, true, false], [true, false, false], true⟩) &&
      answered (exec (.fieldAmpDrvcur [0, 100, 1, 0xF4, 0xFF, 0xFF]) idle) (.scaledList [⟨100, 2⟩, ⟨500, 2⟩, ⟨65535, 2⟩]) &&
      answered (exec (.fieldAmpPdval [0, 1, 0, 2, 0x12, 0x34, 0xFF, 0xFF, 0x7F, 0]) idle)
        (.numbers [1, 2, 4660, 65535, 32512]) &&
      answered (exec (.fieldAmpTemp [0x09, 0xC4, 0, 0, 0xFF, 0xFF, 0x0B, 0xB8]) idle)
        (.scaledList [⟨2500, 2⟩, ⟨0, 2⟩, ⟨65535, 2⟩, ⟨3000, 2⟩]) = true := by decide
/-- A5, Q: `8F` has no event bit, `10` has one, `ED` and `71` are V2's. -/
theorem test_field_ampPdstat :
    answered (exec (.fieldAmpPdstat [0x8F, 0x10, 0xED, 0x71]) idle)
      (.pdStatus [⟨true, true, true, true, false, false, false, false⟩, ⟨false, false, false, false, true, false, false, true⟩,
        ⟨true, false, true, true, false, true, true, true⟩, ⟨true, false, false, false, true, true, true, true⟩]) = true := by
  decide
/-- R95: the seed's containers of V1. -/
theorem test_field_seed :
    answered (exec (.fieldSeedTset [0x61, 0xA8]) idle) (.scaled ⟨25000, 3⟩) &&
      answered (exec (.fieldSeedTact [0x61, 0xFF]) idle) (.scaled ⟨25087, 3⟩) &&
      answered (exec (.fieldSeedTdiode [0x61, 0xC9]) idle) (.scaled ⟨25033, 3⟩) &&
      answered (exec (.fieldSeedIset [0x01, 0xF4]) idle) (.number 500) &&
      answered (exec (.fieldSeedIact [0x00, 0x16]) idle) (.number 22) &&
      answered (exec (.fieldSeedPiezo [0x01, 0x02]) idle) (.scaled ⟨258, 1⟩) &&
      answered (exec (.fieldSeedWavelen [0xA5, 0xD2, 0x79]) idle) (.scaled ⟨10867321, 4⟩) &&
      answered (exec (.fieldSeedPower [0x01]) idle) (.number 1) &&
      answered (exec (.fieldSeedEmission [0xFE]) idle) (.flag false) &&
      answered (exec (.fieldSeedRunh [0x03, 0x52]) idle) (.number 850) &&
      answered (exec (.fieldSeedRunm [0x0B]) idle) (.number 11) &&
      answered (exec (.fieldSeedGrating [0x02, 0x01, 0x07]) idle) (.scaledList [⟨513, 2⟩, ⟨7, 0⟩]) = true := by decide
/-- R34: a field of the seed view, read by the host from the slot. -/
theorem test_viewField :
    answered (step { idle with slotSeed := ⟨true, seedExample⟩, host := [.viewField .seedRunh] }) (.number 850) &&
      refusedAs (step { idle with host := [.viewField .seedRunh] }) .slotInvalid = true := by decide

/-! Steps that no instruction of the table is. -/

/-- X9, R150: a held-back byte goes first and takes no RX event. -/
theorem test_step_replay :
    holds (step { receiving [] with replay := [0x50, 0x00], rx := [0b1100000000] }) (fun t =>
      decide (t.buf = [0x50] ∧ t.replay = [0x00] ∧ t.rx = [0b1100000000] ∧ t.consumed = 0)) = true := by decide
/-- P8 (a): `avail=49`, then a frame. -/
theorem test_step_avail :
    holds (step { idle with busy := true, run := .drain, ctl := .avail, avail := [49, 0] }) (fun t =>
      decide (t.ctl = .rx ∧ t.avail = [0])) = true := by decide
/-- R31: a table length above 64 is refused; 64 is taken. -/
theorem test_tablePort :
    refusedAs (hostPort (.cfgWrite (.lenTable .ret 0xC1 true 65)) idle) .tableLengthTooLarge &&
      holds (hostPort (.cfgWrite (.lenTable .ret 0xC2 true 64)) idle) (fun t =>
        decide (LenTable.lookup t.cfg.retLen 0xC2 = some 64 ∧ LenTable.lookup t.cfg.retLen 0xB7 = some 40)) = true := by
  decide
/-- R27: the host clears `LEN_WARN` by writing 0. -/
theorem test_writeLenWarn :
    holds (hostPort (.writeLenWarn false) { idle with lenWarn := true }) (fun t => !t.lenWarn) = true := by decide
/-- R260, R31: the code of `ERR` as the host reads it. -/
theorem test_readErr :
    answered (hostPort (.read .err) { idle with err := .transportOverrun }) (.byte 10) = true := by decide
/-- R300: reset in mid-frame. -/
theorem test_reset :
    holds (hostPort .reset (receiving (v1.take 20))) (fun t =>
      decide (t.buf = [] ∧ t.res = [] ∧ t.ctl = .idle) && !t.busy && !t.cfg.addrWritten) = true := by decide
/-- A table word placed at reset is the next instruction. -/
theorem test_withFetchWord :
    holds (step (State.reset.withFetchWord 8 0x05)) (fun t => decide (t.run = .recv)) &&
      doneMessage (step (State.reset.withFetchWord 8 0x03)) (fun m =>
        decide (m.commandBytes = hex [0x50, 0, 0, 0, 0, 0, 0, 0x0D, 0x0A])) = true := by decide

/-! Witnesses: for each statement with hypotheses, a state and operands that meet them. -/

/-- A Message's slot-sized payload. -/
def seedMsg : Message := msg 0xB7 (some seedExample)

/-- ACK with a wrong checksum byte but for its last byte, which comes next. -/
def lastByte : State := { receiving ((ack.set 6 0x28).take 9) with rx := [0x0A] }

/-- RECV runs, holding nothing, and the next event is a time-out. -/
def timingOut : State := { receiving [] with rx := [0b1100000000] }

/-- A false start is one byte away, a held-back byte first. -/
def replaying : State := { receiving [0x50] with replay := [0x00] }

theorem inv_lastByte : Inv lastByte where
  busyRun := by decide
  ctlIdle := by decide
  heldOnlyByEngine := by decide
  replayBound := by decide
  bufHeader := by decide
  bufStart := by decide
  bufShort := by decide
  noFrameHeld := by intro raw h; cases h
  dispatchMessage := by intro m h; cases h
  availRun := by intro h; cases h
  txRun := by intro h; cases h
  awaitWaiting := by decide
  sendFrame := by intro f h; cases h
  configuredRun := by decide
  slotAmpSize := by decide
  slotSeedSize := by decide
  lastMsgReceived := by intro h; cases h
  retLenWf := by decide
  cmdLenWf := by decide

theorem inv_timingOut : Inv timingOut where
  busyRun := by decide
  ctlIdle := by decide
  heldOnlyByEngine := by decide
  replayBound := by decide
  bufHeader := by decide
  bufStart := by decide
  bufShort := by decide
  noFrameHeld := by intro raw h; cases h
  dispatchMessage := by intro m h; cases h
  availRun := by intro h; cases h
  txRun := by intro h; cases h
  awaitWaiting := by decide
  sendFrame := by intro f h; cases h
  configuredRun := by decide
  slotAmpSize := by decide
  slotSeedSize := by decide
  lastMsgReceived := by intro h; cases h
  retLenWf := by decide
  cmdLenWf := by decide

theorem witness_ChkAnswersSumModulo256 : idle.busy = false := rfl
theorem witness_XorchkAnswersBitParity : idle.busy = false := rfl
theorem witness_ChecksAreIncremental : idle.busy = false := rfl
theorem witness_SingleByteChangeIsSeenExchangeIsNot : (0x00#8 : Byte) ≠ 0x01#8 := by decide
theorem witness_EncodeBuildsTheFrame :
    idle.busy = false ∧ LenTable.lookup (tableOf idle.cfg .command) 0xA5 = some 2 ∧
      PayloadStandsFor idle.cfg.endian 2 (.int 0x1234) [0x12, 0x34] := by
  refine ⟨rfl, by decide, ?_⟩
  simp only [PayloadStandsFor]
  decide
theorem witness_EncodeBuildsTheFrame_absent :
    LenTable.lookup (tableOf idle.cfg .command) 0x04 = some 0 ∧ PayloadStandsFor idle.cfg.endian 0 .absent [] :=
  ⟨by decide, rfl, rfl⟩
theorem witness_EncodeBuildsTheFrame_bytes : PayloadStandsFor idle.cfg.endian 2 (.bytes [0x12, 0x34]) [0x12, 0x34] :=
  ⟨by decide, rfl, rfl⟩
theorem witness_EncodeRefusesIllFormedOperands :
    idle.busy = false ∧ idle.cfg.addrWritten = true ∧ idle.cfg.ampIdWritten = true ∧
      LenTable.lookup (tableOf idle.cfg .command) 0x05 = none ∧
      LenTable.lookup (tableOf idle.cfg .command) 0x04 = some 0 ∧
      LenTable.lookup (tableOf idle.cfg .command) 0x30 = some 1 ∧ (256 ^ 1 : Nat) ≤ (256 : Int) ∧
      ([] : List Byte).length ≠ 1 := by decide
theorem witness_DecodeChecksInOrderThenDelivers :
    idle.busy = false ∧ 9 ≤ ack.length ∧ ack.length = 9 + lenOf ack ∧
      -- one buffer for each clause
      byteAt (ack.set 2 0x65) 2 ≠ 0x64 ∧ byteAt (ack.set 9 0) 9 ≠ idle.cfg.term1 ∧
      LenTable.lookup (tableOf idle.cfg .ret) 0xB6 = none ∧ LenTable.lookup (tableOf idle.cfg .ret) 0xC1 = some 1 ∧
      sum8 (coveredBytes (ack.set 6 0x28)) ≠ 0x28 ∧ xor8 (coveredBytes (ack.set 7 0xA4)) ≠ 0xA4 ∧
      sum8 (coveredBytes ack) = byteAt ack 6 ∧ xor8 (coveredBytes ack) = byteAt ack 7 := by decide
/-- The shortest frame: nine bytes. -/
theorem witness_DecodeChecksInOrderThenDelivers_nine :
    (hex [0x50, 0, 0, 4, 0, 4, 4, 0x0D, 0x0A]).length = 9 + lenOf (hex [0x50, 0, 0, 4, 0, 4, 4, 0x0D, 0x0A]) := by decide
theorem witness_DecodeRefusesImpossibleBuffers :
    idle.busy = false ∧ (ack.take 8).length < 9 ∧ (ack ++ [0]).length ≠ 9 + lenOf (ack ++ [0]) := by decide
theorem witness_DecodeOfEncodeGivesTheMessageBack :
    idle.busy = false ∧ LenTable.wf (tableOf idle.cfg .command) = true ∧
      ∃ m, Completes (.encodeOp .command 0x30 0x64 (.int 1)) idle (.message m) :=
  ⟨rfl, by decide, _, .idle, Config.freeErrInfo 0, rfl⟩
theorem witness_TamperedFrameIsRejected :
    idle.busy = false ∧
      (∃ t m, exec (.decodeOp .ret 0x64 ack) idle = .next t ∧ t.res = idle.res ++ [.opDone .none (.message m)]) ∧
      -- offsets 0 to 9, the bounds of the clauses on this frame
      lenOf ack = 1 ∧ (0xFF#8 : Byte) ≠ byteAt ack 0 ∧ (0xFF#8 : Byte) ≠ byteAt ack 1 ∧ (0xFF#8 : Byte) ≠ byteAt ack 2 ∧
      (0xB7#8 : Byte) ≠ byteAt ack 3 ∧ (0xFF#8 : Byte) ≠ byteAt ack 4 ∧ (0xFF#8 : Byte) ≠ byteAt ack 5 ∧
      (0xFF#8 : Byte) ≠ byteAt ack 6 ∧ (0xFF#8 : Byte) ≠ byteAt ack 7 ∧ (0xFF#8 : Byte) ≠ byteAt ack 8 ∧
      (0xFF#8 : Byte) ≠ byteAt ack 9 :=
  ⟨rfl, ⟨_, _, rfl, rfl⟩, by decide⟩
theorem witness_HuntKeepsTheHeaderOnly : (receiving []).ctl = .rx ∧ (receiving []).buf = [] := by decide
theorem witness_FrameStartMatchesOrIsReplayed :
    (receiving [0x50]).ctl = .rx ∧ (receiving [0x50, 0x00]).ctl = .rx ∧ (receiving (ack.take 3)).buf.length = 3 ∧
      (receiving (ack.take 4)).buf.length = 4 := by decide
theorem witness_BodyIsCollectedThenDecoded :
    (receiving (ack.take 5)).ctl = .rx ∧ 5 ≤ (receiving (ack.take 5)).buf.length ∧
      (ack.take 6).length ≠ 9 + lenOf (ack.take 6) ∧ ack.length = 9 + lenOf ack ∧
      (∃ m, codecDecode testCfg ack testCfg.addr .ret = .message m) ∧
      codecDecode testCfg (ack.set 6 0) testCfg.addr .ret = .error .checksumMismatch :=
  ⟨by decide, by decide, by decide, by decide, ⟨_, rfl⟩, by decide⟩
theorem witness_CompletingByteExecutesTheFrameWord :
    (receiving (ack.take 9)).ctl = .rx ∧ (receiving (ack.take 9)).run ≠ .none ∧ 5 ≤ (receiving (ack.take 9)).buf.length ∧
      ∃ i, decode (receiving (ack.take 9)).cfg ⟨.frame .ret, ack.take 9 ++ [0x0A]⟩ = .ok i :=
  ⟨by decide, by decide, by decide, _, rfl⟩
theorem witness_ReceivedFrameGoesToDispatch :
    (receiving []).run ≠ .none ∧ ([0x01] : List Byte).length ≤ 255 ∧
      trailer 0x27 0xA5 =
        ⟨sum8 [0x00, 0x64, 0xC1, 0x01, 0x01], xor8 [0x00, 0x64, 0xC1, 0x01, 0x01], testCfg.term0, testCfg.term1⟩ ∧
      LenTable.lookup testCfg.retLen 0xC1 = some 1 := by decide
/-- The two status frames, by the identifier and the length. -/
theorem witness_ReceivedFrameGoesToDispatch_status :
    LenTable.lookup testCfg.retLen 0xB7 = some 40 ∧ seedExample.length = 40 ∧
      LenTable.lookup testCfg.retLen testCfg.ampStatusId = some 64 ∧ v2.length = 64 := by decide
theorem witness_OverrunIsRetriedOrFatal :
    (receiving [0x50]).ctl = .rx ∧ (receiving [0x50]).cfg.overrunScope = .all ∧
      ({ receiving [0x50] with cfg := { testCfg with overrunScope := .huntOnly } } : State).cfg.overrunScope = .huntOnly ∧
      (receiving [0x50]).buf ≠ [] := by decide
theorem witness_FatalAndTimeoutEndTheOperation : (receiving [0x50]).ctl = .rx := rfl
theorem witness_EngineOperationsStart :
    idle.busy = false ∧ idle.cfg.addrWritten = true ∧ idle.cfg.ampIdWritten = true ∧
      LenTable.lookup idle.cfg.cmdLen 0x30 = some 1 ∧ PayloadStandsFor idle.cfg.endian 1 (.bytes [0x01]) [0x01] ∧
      LenTable.lookup idle.cfg.cmdLen 0x04 = some 0 ∧ PayloadStandsFor idle.cfg.endian 0 .absent [] :=
  ⟨rfl, rfl, rfl, by decide, ⟨by decide, rfl, rfl⟩, by decide, rfl, rfl⟩
theorem witness_OperationsAreRefusedWhileBusyOrUnconfigured :
    (receiving []).busy = true ∧ isHostOp .recv = true ∧ State.reset.busy = false ∧
      State.reset.cfg.addrWritten = false := by decide
theorem witness_WstateFollowsHostOperations :
    isHostOp .recv = true ∧ (∀ id, Instr.recv ≠ .await id) ∧ (∃ t, exec .recv idle = .next t) ∧
      (∃ t, exec (.await 0xC1) idle = .next t) ∧
      ∃ t, exec (.dispatchNone (msg 0xC1 none))
        { dispatching (msg 0xC1 none) with run := .await, awaitId := 0xC1 } = .next t :=
  ⟨rfl, by simp, ⟨_, rfl⟩, ⟨_, rfl⟩, _, rfl⟩
theorem witness_DispatchReplacesTheSlot :
    (dispatching seedMsg).run ≠ .none ∧ seedMsg.payload = some seedExample ∧ seedExample.length = 40 ∧
      (msg 0xA0 (some v2)).payload = some v2 ∧ v2.length = 64 := by decide
theorem witness_UnregisteredFramePassesThrough : (dispatching (msg 0xC1 none)).run ≠ .none := by decide
theorem witness_DispatchErrorsLeaveTheSlots :
    (dispatching seedMsg).run ≠ .none ∧ (msg 0xB7 none).payload = none ∧
      (msg 0xB7 (some (seedExample.take 39))).payload = some (seedExample.take 39) ∧ (seedExample.take 39).length ≠ 40 ∧
      (v2 ++ [0]).length ≠ 64 := by decide
theorem witness_DispatchIsIdempotent :
    ∃ t v, exec (.dispatchSeed seedMsg) (dispatching seedMsg) = .next t ∧ t.err = .none ∧
      exec (.dispatchSeed seedMsg) { t with run := .recv, busy := true } = .next v :=
  ⟨_, _, rfl, rfl, rfl⟩
theorem witness_CommandByteChoosesTheDispatchRow :
    (dispatching seedMsg).busy = true ∧ (dispatching seedMsg).turns = [] ∧
      (dispatching seedMsg).ctl = .dispatch seedMsg := ⟨rfl, rfl, rfl⟩
theorem witness_AvailAnswerContinuesOrEndsTheDrain :
    let s : Nat → Run → State := fun n r => { idle with busy := true, run := r, ctl := .avail, avail := [n] }
    (s 1 .drain).busy = true ∧ (s 1 .drain).turns = [] ∧ (s 1 .drain).ctl = .avail ∧ (s 1 .drain).avail = [1] ∧
      (s 0 .drain).run = .drain ∧ (s 0 (.send cmd1)).run = .send cmd1 := by decide
theorem witness_SendWritesOneWholeFrame :
    cmd1 = frameBytes idle.cfg.header 0x64 0x30 [0x01] (trailer 0x96 0x54) ∧ ([0x01] : List Byte).length ≤ 64 ∧
      (sending true).busy = true ∧ (sending true).turns = [] ∧ (sending true).ctl = .tx ∧
      (sending true).run = .send cmd1 ∧ (sending true).txAns = [true] ∧ (sending false).txAns = [false] := by decide
theorem witness_ErrorEndsTheOperationAndNothingElse :
    Inv timingOut ∧ timingOut.busy = true ∧
      ∃ t, step timingOut = .next t ∧ t.res = timingOut.res ++ [.opDone .transportTimeout .nothing] :=
  ⟨inv_timingOut, rfl, _, rfl, rfl⟩
theorem witness_StepKeepsInvariant : Inv lastByte ∧ ∃ t, step lastByte = .next t := ⟨inv_lastByte, _, rfl⟩
theorem witness_NothingHeldWhileIdle :
    Inv timingOut ∧ ∃ t, step timingOut = .next t ∧ t.busy = false := ⟨inv_timingOut, _, rfl, rfl⟩
theorem witness_InvariantStatesNeverFault : Inv lastByte := inv_lastByte
theorem witness_NextByteComesFromReplayFirst :
    replaying.busy = true ∧ replaying.turns = [] ∧ replaying.ctl = .rx ∧ replaying.replay = [0x00] ∧
      timingOut.replay = [] ∧ timingOut.rx = [0b11#2 ++ 0x00#8] ∧ (receiving []).rx = [] := by decide
theorem witness_StepRunsTheDecodedHostWord :
    let s : HostAct → State := fun a => { idle with host := [a], slotSeed := ⟨true, seedExample⟩ }
    (s (.op [0x05])).busy = false ∧ (s (.op [0x05])).turns = [] ∧ decode testCfg ⟨.op, [0x05]⟩ = .ok .recv ∧
      decode testCfg ⟨.op, [0x0B]⟩ = .error (.undefinedOpCode 0x0B) ∧ (s (.port .reset)).host = [.port .reset] ∧
      ((s (.viewField .seedRunh)).slot (fieldSlot .seedRunh)).valid = true ∧
      decode testCfg ⟨.field .seedRunh, fieldContainer testCfg seedExample .seedRunh⟩ = .ok (.fieldSeedRunh [0x03, 0x52]) ∧
      (idle.slot (fieldSlot .seedRunh)).valid = false := by decide
theorem witness_ConfigurationIsConstantWhileRunning :
    (∃ t, exec .recv idle = .next t) ∧
      (∃ t, availAnswer 1 { idle with busy := true, run := .drain, ctl := .avail } = .next t) ∧
      (receiving []).busy = true := ⟨⟨_, rfl⟩, ⟨_, rfl⟩, rfl⟩
theorem witness_EachOperationLeavesTheRestAlone :
    (∀ m, Instr.recv ≠ .dispatchSeed m) ∧ isHostOp .recv = true ∧
      ∃ t, exec .recv { idle with lenWarn := true } = .next t := ⟨by simp, rfl, _, rfl⟩
/-- In its first clause; the others have no hypothesis. -/
theorem witness_LenWarnIsSticky :
    ∃ t, step { idle with lenWarn := true, host := [.port (.writeLenWarn false)] } = .next t ∧ t.lenWarn = false :=
  ⟨_, rfl, rfl⟩
theorem witness_RxEventsAreTakenOnceInOrder : ∃ t, step timingOut = .next t ∧ t.rx = [] := ⟨_, rfl, rfl⟩
theorem witness_FrameErrorsComeWithTheLastByte :
    Inv lastByte ∧ lastByte.busy = true ∧ lastByte.turns = [] ∧ lastByte.ctl = .rx ∧
      isTransport .checksumMismatch = false ∧
      ∃ t, step lastByte = .next t ∧ t.res = lastByte.res ++ [.opDone .checksumMismatch .nothing] :=
  ⟨inv_lastByte, rfl, rfl, rfl, rfl, _, rfl, rfl⟩
/-- P2 on ACK: the stream `50` ++ ACK, whose first byte is a false start that reads the real one. -/
theorem witness_GarbageThenFrameSynchronises :
    let s : State := { receiving [] with rx := byteEvents ([0x50] ++ ack) ++ [0b1100000000] }
    Hunting s ∧ s.rx = byteEvents ([0x50] ++ ack) ++ [0b1100000000] ∧
      (∃ m, codecDecode s.cfg ack s.cfg.addr .ret = .message m) ∧
      ∀ p, p < ([0x50#8] : List Byte).length →
        ¬(byteAt ([0x50#8] ++ ack) p = s.cfg.header ∧ byteAt ([0x50#8] ++ ack) (p + 1) = 0x00#8 ∧
          byteAt ([0x50#8] ++ ack) (p + 2) = s.cfg.addr) :=
  ⟨⟨rfl, rfl, rfl, rfl, rfl⟩, rfl, ⟨_, rfl⟩, by decide⟩
theorem witness_ConfigurationWritesAreSeen : idle.busy = false ∧ 64 < (65#7 : BitVec 7).toNat := by decide
theorem witness_TableWriteIsReadBack :
    idle.busy = false ∧ (64#7 : BitVec 7).toNat ≤ 64 ∧ LenTable.wf idle.cfg.retLen = true ∧
      LenTable.wf idle.cfg.cmdLen = true ∧ (MsgClass.ret ≠ .command ∨ (0xC1#8 : Byte) ≠ 0xC1#8) := by decide
theorem witness_SlotAndMessageReadsAreGuarded :
    ({ receiving [] with slotAmp := ⟨true, vq⟩ } : State).busy = true ∧ vq.length = 64 ∧ seedExample.length = 40 ∧
      ({ idle with slotAmp := ⟨true, vq⟩ } : State).slotAmp.valid = true ∧
      (idle.slot .seed).valid = false ∧ 39 < (idle.slot .seed).raw.length ∧ 63 < (idle.slot .amp).raw.length ∧
      (({ idle with slotSeed := ⟨true, seedExample⟩ } : State).slot .seed).valid = true ∧ idle.busy = false ∧
      idle.lastMsgValid = false ∧ ({ idle with lastMsgValid := true } : State).lastMsgValid = true := by decide
theorem witness_AmpSystemStatusBitsAndFault :
    idle.busy = false ∧ idle.cfg.amp = ampLayoutDefault ∧ vq.length = 64 ∧ word16At idle.cfg.endian vq 3 = 0x014B := by
  decide
theorem witness_AmpStableAndDriverUnlockBits :
    idle.busy = false ∧ idle.cfg.amp = ampLayoutDefault ∧ vq.length = 64 ∧ byteAt vq 4 = 0x4B := by decide
theorem witness_AmpCurrentsValuesAndTemperatures :
    idle.busy = false ∧ idle.cfg.amp = ampLayoutDefault ∧ vq.length = 64 := by decide
theorem witness_AmpPhotodiodeStatusBits :
    idle.busy = false ∧ idle.cfg.amp = ampLayoutDefault ∧ vq.length = 64 := by decide
theorem witness_DecodersAnswerTheExtractorsTogether :
    idle.busy = false ∧ vq.length = 64 ∧ seedExample.length = 40 := by decide
theorem witness_StatusDecodersRaiseWrongLength :
    idle.busy = false ∧ (Instr.seeddec vq, 40) ∈ statusDecoders vq ∧ vq.length ≠ 40 ∧
      (Instr.ampTemp vq, 64) ∈ statusDecoders vq ∧ vq.length = 64 := by decide
theorem witness_SeedPinnedFields :
    idle.busy = false ∧ idle.cfg.seedLayout = seedLayoutWith ⟨6, 2, 1, 1⟩ ⟨30, 0x01⟩ [⟨8, 2, 1, 2⟩, ⟨10, 1, 1, 0⟩] ∧
      seedExample.length = 40 := by decide
theorem witness_SeedOpenFields : idle.busy = false ∧ seedExample.length = 40 := by decide
theorem witness_SeedExampleDecodes :
    idle.busy = false ∧ idle.cfg.seedLayout = seedLayoutWith ⟨6, 2, 1, 1⟩ ⟨30, 0x01⟩ [⟨8, 2, 1, 2⟩, ⟨10, 1, 1, 0⟩] ∧
      idle.cfg.endian = .big := by decide
theorem witness_FieldRowsAgreeWithTheExtractors :
    idle.busy = false ∧ seedExample.length = payLenOf .seedGrating ∧ vq.length = payLenOf .ampPdval ∧
      ([1, 2, 3] : List Byte).length = fieldSize idle.cfg .seedGrating ∧
      ([0x61, 0xA8] : List Byte).length = fieldSize idle.cfg .seedTset := by decide
theorem witness_DecodeGivesEncodedOperationBack :
    (Instr.frameRet 0x64 0xC1 [0x01] (trailer 0x27 0xA5)).wf testCfg = true ∧
      (Instr.frameRet 0x64 0xB7 [] (trailer 0 0)).wf testCfg = true ∧
      (Instr.send 0x30 0x64 (.int (-1))).wf testCfg = true := by decide
theorem witness_DecodedWordsEncodeBack : decode testCfg ⟨.rxev, [0x01, 0xFF]⟩ = .ok (.rxOverrun 0xFF) := by decide
theorem witness_RegisterReadsAnswerTheRegisters :
    idle.cfg.endian = .big ∧ ({ testCfg with endian := .little } : Cfg).endian = .little ∧
      idle.cfg.overrunScope = .all ∧ ({ testCfg with overrunScope := .huntOnly } : Cfg).overrunScope = .huntOnly ∧
      idle.err = .none ∧ ({ idle with err := .transportOverrun } : State).err = .transportOverrun ∧
      idle.wstate = .idle ∧ ({ idle with wstate := .matched } : State).wstate = .matched := by decide
theorem witness_UndefinedOperationCodesAreRefused :
    idle.busy = false ∧ idle.turns = [] ∧
      ([0x00#8, 0x0B, 0x0F, 0x17, 0x1F, 0x2C, 0xFF] : List Byte).all (fun code =>
        !decide (1 ≤ code.toNat ∧ code.toNat ≤ 0x0A) && !decide (0x10 ≤ code.toNat ∧ code.toNat ≤ 0x16)
          && !decide (0x20 ≤ code.toNat ∧ code.toNat ≤ 0x2B)) = true := by decide

end Sys2Proof.Tests
end

section
/-! SUPPORT. The state's registers: what starts, what each operation and each host transaction changes, and what it leaves
alone (10_state.md). -/

namespace Sys2Proof.Machine

open Sys2Proof.Claims

/-! Starting a host operation. -/

theorem isHostOp_iff {i : Instr} : isHostOp i = true ↔ (encode resetCfg i).chan = .op := by simp [isHostOp]

theorem startPure_busy {s : State} (h : s.busy = true) (k : State → StepResult) :
    startPure s k = .refused .busy := by simp [startPure, h]

theorem startEngine_busy {s : State} (h : s.busy = true) (k : State → StepResult) :
    startEngine s k = .refused .busy := by simp [startEngine, h]

theorem startEngine_unconfigured {s : State} (hb : s.busy = false)
    (hc : s.cfg.addrWritten = false ∨ s.cfg.ampIdWritten = false) (k : State → StepResult) :
    startEngine s k = .refused .unconfigured := by
  have hn : configured s = false := by rcases hc with hc | hc <;> simp [configured, hc]
  simp [startEngine, hb, hn]

theorem decodeStatus_busy {want : Nat} {p : List Byte} {r : Result} {s : State} (h : s.busy = true) :
    decodeStatus want p r s = .refused .busy := startPure_busy h _

/-- Every host operation begins with `startPure` or `startEngine`, and both refuse while `BUSY = 1` (R28). -/
theorem exec_hostOp_busy {i : Instr} {s : State} (hi : isHostOp i = true) (hb : s.busy = true) :
    exec i s = .refused .busy := by
  rw [isHostOp_iff] at hi
  cases i with
  | recv | drain | await | send =>
    simp only [exec]
    exact startEngine_busy hb _
  | chk | xorchk | encodeOp | decodeOp =>
    simp only [exec]
    exact startPure_busy hb _
  | ampdec | seeddec | ampStable | ampSysstat | ampDrvunlock | ampDrvcur | ampPdval | ampPdstat | ampTemp | seedTset
  | seedTact | seedTdiode | seedIset | seedIact | seedPiezo | seedWavelen | seedPower | seedEmission | seedRunh | seedRunm
  | seedGrating => exact decodeStatus_busy hb
  | _ => cases hi

/-- Settles O19: the two ways an operation starts refuse it (R28, R302). -/
theorem operationsAreRefusedWhileBusyOrUnconfigured : Obligations.OperationsAreRefusedWhileBusyOrUnconfigured := by
  refine ⟨fun s i hb hi => exec_hostOp_busy hi hb, fun s i hb hc hi => ?_⟩
  obtain rfl | rfl | ⟨id, rfl⟩ | ⟨cmd, addr, p, rfl⟩ := hi
  all_goals
    simp only [exec]
    exact startEngine_unconfigured hb hc _

/-! `WSTATE`. -/

/-- A DISPATCH that no slot takes goes on to the running operation. -/
theorem execDispatchNone_next {m : Message} {s t : State} (h : execDispatchNone m s = .next t) :
    frameDone m s = .next t := by
  unfold execDispatchNone at h
  split at h
  · cases h
  · exact h

/-- AWAIT's start. -/
theorem execAwait_next {id : Byte} {s t : State} (h : execAwait id s = .next t) :
    t = ({ s with awaitId := id } : State).begin .waiting .await .rx := by
  obtain ⟨-, -, h⟩ := startEngine_next h
  injection h with h
  exact h.symm

/-- Only AWAIT starts in another `WSTATE` than `IDLE` (R25). -/
theorem OpStep.wstate_idle {i : Instr} {s t : State} (h : OpStep i s t) (hi : ∀ id, i ≠ .await id) :
    t.wstate = .idle := by
  cases h with
  | await id h => exact absurd h (hi id)
  | error => simp
  | done | recv | drain | send => rfl

/-- Settles O20: by what a host operation can do (`OpStep`), and by what follows a dispatched frame. -/
theorem wstateFollowsHostOperations : Obligations.WstateFollowsHostOperations := by
  refine ⟨fun i s t hi hw h => ?_, fun id s t h => ?_, fun m s t hr hm h => ?_⟩
  · exact (exec_op_next (isHostOp_iff.mp hi) h).2.wstate_idle hw
  · rw [execAwait_next h]
    exact ⟨rfl, rfl⟩
  · obtain ⟨hn, -⟩ | ⟨hn, -⟩ | ⟨-, -, rfl⟩ | ⟨-, hn, -⟩ := frameDone_next (execDispatchNone_next h)
    · simp [hr] at hn
    · simp [hr] at hn
    · rfl
    · exact absurd hm hn

/-! What each operation leaves alone. -/

/-- The queues of the host and the transport. -/
structure Queues where
  rx : List RxWord
  avail : List Nat
  host : List HostAct
  turns : List Agent
  consumed : Nat

def State.queues (s : State) : Queues := ⟨s.rx, s.avail, s.host, s.turns, s.consumed⟩

/-- What is held for the host to read, and channel `TX`. -/
structure Held where
  slotSeed : Slot
  slotAmp : Slot
  lastMsg : Message
  lastMsgValid : Bool
  awaitId : Byte
  tx : List (List Byte)
  txAns : List Bool

def State.held (s : State) : Held :=
  ⟨s.slotSeed, s.slotAmp, s.lastMsg, s.lastMsgValid, s.awaitId, s.tx, s.txAns⟩

/-- What is held with one slot replaced. -/
def Held.withSlot (d : Held) (slot : Slot) : SlotSel → Held
  | .amp => { d with slotAmp := slot }
  | .seed => { d with slotSeed := slot }

/-- No queue is touched, `LEN_WARN` is not cleared, and events are only added. -/
def KeepsQueues (s t : State) : Prop :=
  t.queues = s.queues ∧ (s.lenWarn = true → t.lenWarn = true) ∧ ∃ new, t.res = s.res ++ new

theorem KeepsQueues.refl (s : State) : KeepsQueues s s := ⟨rfl, id, [], (List.append_nil _).symm⟩

theorem KeepsQueues.trans {s t u : State} (h : KeepsQueues s t) (h' : KeepsQueues t u) : KeepsQueues s u := by
  obtain ⟨hq, hw, new, hn⟩ := h
  obtain ⟨hq', hw', new', hn'⟩ := h'
  exact ⟨hq'.trans hq, hw' ∘ hw, new ++ new', by rw [hn', hn, List.append_assoc]⟩

theorem keepsQueues_finish (s : State) (e : ErrCode) (g : ErrInfo → ErrInfo) (r : Result) :
    KeepsQueues s (s.finish e g r) := ⟨rfl, id, _, rfl⟩

theorem keepsQueues_raise (s : State) (e : ErrCode) (g : ErrInfo → ErrInfo) : KeepsQueues s (s.raise e g) := by
  simp [KeepsQueues, State.queues]

theorem keepsQueues_storeSlot (s : State) (sel : SlotSel) (p : List Byte) : KeepsQueues s (s.storeSlot sel p) := by
  simp [KeepsQueues, State.queues]

@[simp] theorem State.raise_held (s : State) (e : ErrCode) (g : ErrInfo → ErrInfo) : (s.raise e g).held = s.held := by
  simp [State.held]

theorem State.storeSlot_held (s : State) (sel : SlotSel) (p : List Byte) :
    (s.storeSlot sel p).held = s.held.withSlot ⟨true, p⟩ sel := by cases sel <;> rfl

theorem State.held_withSlot (s : State) (sel : SlotSel) : s.held.withSlot (s.slot sel) sel = s.held := by
  cases sel <;> rfl

/-- DECODE on the receive path touches `BUF`, `LEN_WARN` and what ends an operation. -/
theorem receiveFrame_keeps {raw : List Byte} {s t : State} (h : receiveFrame raw s = .next t) :
    KeepsQueues s t ∧ t.held = s.held := by
  obtain ⟨e, -, rfl⟩ | ⟨m, -, rfl⟩ := receiveFrame_next h
  · exact ⟨keepsQueues_raise { s with buf := [] } e _, State.raise_held _ e _⟩
  · exact ⟨⟨rfl, fun h => by simp [h], [], (List.append_nil _).symm⟩, rfl⟩

theorem receiveFrameWord_keeps {raw : List Byte} {s t : State} (h : receiveFrameWord raw s = .next t) :
    KeepsQueues s t ∧ t.held = s.held := receiveFrame_keeps (receiveFrameWord_next h).2

/-- A received byte touches `BUF` and `REPLAY` alone; the one that completes a frame does what `receiveFrame` does. -/
theorem execRxByte_keeps {b : Byte} {s t : State} (h : execRxByte b s = .next t) :
    KeepsQueues s t ∧ t.held = s.held := by
  have hbuf : ∀ buf replay, KeepsQueues s { s with buf := buf, replay := replay } ∧
      ({ s with buf := buf, replay := replay } : State).held = s.held := fun _ _ => ⟨KeepsQueues.refl s, rfl⟩
  obtain ⟨-, ⟨-, rfl⟩ | ⟨h0, -, rfl⟩ | ⟨h0, z, -, rfl⟩ | ⟨-, rfl⟩ | ⟨-, -, rfl⟩ | ⟨-, -, h⟩⟩ := execRxByte_next h
  · split
    · exact hbuf _ _
    · exact hbuf _ _
  · exact hbuf _ _
  · split
    · exact hbuf _ _
    · exact hbuf _ _
  · exact hbuf _ _
  · exact hbuf _ _
  · exact receiveFrame_keeps h

theorem execRxOverrun_keeps {x : Byte} {s t : State} (h : execRxOverrun x s = .next t) :
    KeepsQueues s t ∧ t.held = s.held := by
  obtain ⟨-, rfl | ⟨-, -, rfl⟩⟩ := execRxOverrun_next h
  · exact ⟨KeepsQueues.refl _, rfl⟩
  · exact ⟨keepsQueues_raise s _ _, State.raise_held s _ _⟩

/-- A FIELD row adds an answer to `RES` and touches nothing else. -/
theorem exec_field_keeps {i : Instr} {s t : State} {sel : FieldSel} (hi : (encode resetCfg i).chan = .field sel)
    (h : exec i s = .next t) : KeepsQueues s t ∧ t.held = s.held := by
  obtain ⟨r, rfl⟩ := exec_field_next hi h
  exact ⟨⟨rfl, id, _, rfl⟩, rfl⟩

/-- What follows a dispatched frame touches, of what is held, `LASTMSG` alone. -/
theorem frameDone_keeps {m : Message} {s t : State} (h : frameDone m s = .next t) :
    KeepsQueues s t ∧ t.held = { s.held with lastMsg := m, lastMsgValid := true } := by
  obtain ⟨-, rfl⟩ | ⟨-, rfl⟩ | ⟨-, -, rfl⟩ | ⟨-, -, rfl⟩ := frameDone_next h
  · exact ⟨keepsQueues_finish (s.deliver m) _ _ _, rfl⟩
  · exact ⟨KeepsQueues.refl s, rfl⟩
  · exact ⟨keepsQueues_finish { s.deliver m with wstate := .matched } _ _ _, rfl⟩
  · exact ⟨KeepsQueues.refl s, rfl⟩

/-- DISPATCH to a slot touches, of what is held, that slot and `LASTMSG` alone. -/
theorem dispatchTo_keeps {sel : SlotSel} {want : Nat} {m : Message} {s t : State} (h : dispatchTo sel want m s = .next t) :
    KeepsQueues s t ∧ ∃ slot msg v, t.held = { s.held.withSlot slot sel with lastMsg := msg, lastMsgValid := v } := by
  have hraise : ∀ e g, ∃ slot msg v,
      (s.raise e g).held = { s.held.withSlot slot sel with lastMsg := msg, lastMsgValid := v } := fun e g =>
    ⟨s.slot sel, s.lastMsg, s.lastMsgValid, by rw [State.raise_held, State.held_withSlot]; rfl⟩
  obtain ⟨-, ⟨-, rfl⟩ | ⟨p, -, -, rfl⟩ | ⟨p, -, -, h⟩⟩ := dispatchTo_next h
  · exact ⟨keepsQueues_raise s _ _, hraise _ _⟩
  · exact ⟨keepsQueues_raise s _ _, hraise _ _⟩
  · obtain ⟨hq, hheld⟩ := frameDone_keeps h
    exact ⟨(keepsQueues_storeSlot s sel p).trans hq, ⟨true, p⟩, m, true, by rw [hheld, State.storeSlot_held]⟩

/-- SEND's write touches, of what is held, `TX` and the transport's answer alone. -/
theorem execFrameCmd_keeps {addr cmd : Byte} {p : List Byte} {tr : Trailer} {s t : State}
    (h : execFrameCmd addr cmd p tr s = .next t) :
    KeepsQueues s t ∧ ∃ tx txAns, t.held = { s.held with tx := tx, txAns := txAns } := by
  obtain ⟨-, ⟨-, rfl⟩ | ⟨rest, -, rfl⟩ | ⟨rest, -, rfl⟩⟩ := execFrameCmd_next h
  · exact ⟨KeepsQueues.refl _, _, _, rfl⟩
  · exact ⟨keepsQueues_finish { s with txAns := rest, tx := _ } _ _ _, _, rest, rfl⟩
  · exact ⟨keepsQueues_raise { s with txAns := rest } _ _, s.tx, rest, rfl⟩

/-- A host operation touches, of what is held, AWAIT's identifier alone, and not the engine's bytes. -/
theorem OpStep.keeps {i : Instr} {s t : State} (h : OpStep i s t) :
    KeepsQueues s t ∧ (∃ id, t.held = { s.held with awaitId := id } ∧ ((∀ id', i ≠ .await id') → id = s.awaitId)) ∧
      t.buf = s.buf ∧ t.replay = s.replay := by
  cases h with
  | done r lw hlw => exact ⟨⟨rfl, hlw, _, rfl⟩, ⟨s.awaitId, rfl, fun _ => rfl⟩, rfl, rfl⟩
  | error e g hne ht =>
    exact ⟨keepsQueues_raise { s with wstate := .idle } e g, ⟨s.awaitId, State.raise_held _ e g, fun _ => rfl⟩,
      by simp [ht], by simp [ht]⟩
  | recv | drain | send => exact ⟨KeepsQueues.refl s, ⟨s.awaitId, rfl, fun _ => rfl⟩, rfl, rfl⟩
  | await id hi => exact ⟨KeepsQueues.refl s, ⟨id, rfl, fun h => absurd hi (h id)⟩, rfl, rfl⟩

/-- What only some operations touch, and which they are. -/
def LeavesTheRestAlone (i : Instr) (s t : State) : Prop :=
  ((∀ m, i ≠ .dispatchSeed m) → t.slotSeed = s.slotSeed) ∧
  ((∀ m, i ≠ .dispatchAmp m) → t.slotAmp = s.slotAmp) ∧
  ((∀ a c p tr, i ≠ .frameCmd a c p tr) → t.tx = s.tx ∧ t.txAns = s.txAns) ∧
  ((∀ m, i ≠ .dispatchSeed m ∧ i ≠ .dispatchAmp m ∧ i ≠ .dispatchNone m) →
    t.lastMsg = s.lastMsg ∧ t.lastMsgValid = s.lastMsgValid) ∧
  ((∀ id, i ≠ .await id) → t.awaitId = s.awaitId) ∧
  (isHostOp i = true → t.buf = s.buf ∧ t.replay = s.replay)

/-- An operation of the receive path or a FIELD row touches nothing of what is held. -/
theorem leavesTheRestAlone_of_held {i : Instr} {s t : State} (hi : isHostOp i = false) (h : t.held = s.held) :
    LeavesTheRestAlone i s t :=
  ⟨fun _ => congrArg Held.slotSeed h, fun _ => congrArg Held.slotAmp h,
    fun _ => ⟨congrArg Held.tx h, congrArg Held.txAns h⟩,
    fun _ => ⟨congrArg Held.lastMsg h, congrArg Held.lastMsgValid h⟩, fun _ => congrArg Held.awaitId h,
    fun hop => by simp [hi] at hop⟩

theorem OpStep.leavesTheRestAlone {i : Instr} {s t : State} (h : OpStep i s t) : LeavesTheRestAlone i s t := by
  obtain ⟨-, ⟨id, h, hid⟩, hbuf, hreplay⟩ := h.keeps
  exact ⟨fun _ => congrArg Held.slotSeed h, fun _ => congrArg Held.slotAmp h,
    fun _ => ⟨congrArg Held.tx h, congrArg Held.txAns h⟩,
    fun _ => ⟨congrArg Held.lastMsg h, congrArg Held.lastMsgValid h⟩,
    fun hi => (congrArg Held.awaitId h).trans (hid hi), fun _ => ⟨hbuf, hreplay⟩⟩

/-- Every operation, by the channel its word stands on. -/
theorem exec_keeps {i : Instr} {s t : State} (h : exec i s = .next t) : KeepsQueues s t ∧ LeavesTheRestAlone i s t := by
  cases i with
  | frameSeedStatus | frameAmpStatus | frameRet =>
    obtain ⟨hq, hh⟩ := receiveFrameWord_keeps h
    exact ⟨hq, leavesTheRestAlone_of_held rfl hh⟩
  | frameCmd addr cmd p tr =>
    obtain ⟨hq, tx, txAns, hh⟩ := execFrameCmd_keeps h
    exact ⟨hq, fun _ => congrArg Held.slotSeed hh, fun _ => congrArg Held.slotAmp hh,
      fun hi => absurd rfl (hi addr cmd p tr),
      fun _ => ⟨congrArg Held.lastMsg hh, congrArg Held.lastMsgValid hh⟩, fun _ => congrArg Held.awaitId hh, nofun⟩
  | rxByte =>
    obtain ⟨hq, hh⟩ := execRxByte_keeps h
    exact ⟨hq, leavesTheRestAlone_of_held rfl hh⟩
  | rxOverrun x =>
    obtain ⟨hq, hh⟩ := execRxOverrun_keeps (x := x) h
    exact ⟨hq, leavesTheRestAlone_of_held rfl hh⟩
  | rxFatal x =>
    obtain ⟨-, rfl⟩ := execRxFatal_next (x := x) h
    exact ⟨keepsQueues_raise s _ _, leavesTheRestAlone_of_held rfl (State.raise_held s _ _)⟩
  | rxTimeout x =>
    obtain ⟨-, rfl⟩ := execRxTimeout_next (x := x) h
    exact ⟨keepsQueues_raise s _ _, leavesTheRestAlone_of_held rfl (State.raise_held s _ _)⟩
  | fieldAmpStable | fieldAmpSysstat | fieldAmpDrvunlock | fieldAmpDrvcur | fieldAmpPdval | fieldAmpPdstat | fieldAmpTemp
  | fieldSeedTset | fieldSeedTact | fieldSeedTdiode | fieldSeedIset | fieldSeedIact | fieldSeedPiezo | fieldSeedWavelen
  | fieldSeedPower | fieldSeedEmission | fieldSeedRunh | fieldSeedRunm | fieldSeedGrating =>
    obtain ⟨hq, hh⟩ := exec_field_keeps rfl h
    exact ⟨hq, leavesTheRestAlone_of_held rfl hh⟩
  | dispatchSeed m =>
    obtain ⟨hq, slot, msg, v, hh⟩ := dispatchTo_keeps (sel := .seed) h
    exact ⟨hq, fun hi => absurd rfl (hi m), fun _ => congrArg Held.slotAmp hh,
      fun _ => ⟨congrArg Held.tx hh, congrArg Held.txAns hh⟩, fun hi => absurd rfl (hi m).1,
      fun _ => congrArg Held.awaitId hh, nofun⟩
  | dispatchAmp m =>
    obtain ⟨hq, slot, msg, v, hh⟩ := dispatchTo_keeps (sel := .amp) h
    exact ⟨hq, fun _ => congrArg Held.slotSeed hh, fun hi => absurd rfl (hi m),
      fun _ => ⟨congrArg Held.tx hh, congrArg Held.txAns hh⟩, fun hi => absurd rfl (hi m).2.1,
      fun _ => congrArg Held.awaitId hh, nofun⟩
  | dispatchNone m =>
    obtain ⟨hq, hh⟩ := frameDone_keeps (execDispatchNone_next h)
    exact ⟨hq, fun _ => congrArg Held.slotSeed hh, fun _ => congrArg Held.slotAmp hh,
      fun _ => ⟨congrArg Held.tx hh, congrArg Held.txAns hh⟩, fun hi => absurd rfl (hi m).2.2,
      fun _ => congrArg Held.awaitId hh, nofun⟩
  | _ =>
    obtain ⟨-, h⟩ := exec_op_next rfl h
    exact ⟨h.keeps.1, h.leavesTheRestAlone⟩

/-- Settles O36: channel by channel, from what each shared operation touches. -/
theorem eachOperationLeavesTheRestAlone : Obligations.EachOperationLeavesTheRestAlone := by
  intro i s t h
  obtain ⟨⟨hq, hwarn, hres⟩, hseed, hamp, htx, hlast, hid, hbytes⟩ := exec_keeps h
  exact ⟨hseed, hamp, htx, hlast, hid, hbytes, hwarn, congrArg Queues.rx hq, congrArg Queues.avail hq,
    congrArg Queues.host hq, congrArg Queues.turns hq, congrArg Queues.consumed hq, hres⟩

/-! `LEN_WARN`. -/

/-- `LEN_WARN` is `w` after the fetch, where something is fetched. -/
def Fetch.LenWarnIs (w : Bool) : Fetch → Prop
  | .instr _ s | .port _ s | .avail _ s | .wait s => s.lenWarn = w
  | .reject _ | .stop _ => True

theorem fetchWord_lenWarn {w : Bool} {s : State} (h : s.lenWarn = w) (p : Packet) : (fetchWord p s).LenWarnIs w := by
  unfold fetchWord
  split
  · exact h
  · trivial

theorem fetchHost_lenWarn (s : State) : (fetchHost s).LenWarnIs s.lenWarn := by
  unfold fetchHost
  split
  · rfl
  · exact fetchWord_lenWarn (by rfl) _
  · unfold fetchField
    dsimp only
    split
    · exact fetchWord_lenWarn (by rfl) _
    · trivial
  · rfl

theorem fetchByte_lenWarn (s : State) : (fetchByte s).LenWarnIs s.lenWarn := by
  unfold fetchByte
  split
  · exact fetchWord_lenWarn (by rfl) _
  · split
    · rfl
    · exact fetchWord_lenWarn (by rfl) _

theorem fetchTx_lenWarn (s : State) : (fetchTx s).LenWarnIs s.lenWarn := by
  unfold fetchTx
  split
  · split
    · rfl
    · exact fetchWord_lenWarn (by rfl) _
  · trivial

theorem fetchEngine_lenWarn (s : State) : (fetchEngine s).LenWarnIs s.lenWarn := by
  unfold fetchEngine
  split
  · rfl
  · exact fetchByte_lenWarn s
  · split
    · rfl
    · rfl
  · exact fetchWord_lenWarn (by rfl) _
  · exact fetchWord_lenWarn (by rfl) _
  · exact fetchTx_lenWarn s

/-- Taking the next thing changes no register: `LEN_WARN` reads as before. -/
theorem fetch_lenWarn (s : State) : (fetch s).LenWarnIs s.lenWarn := by
  unfold fetch
  split
  · split
    · exact fetchEngine_lenWarn s
    · exact fetchHost_lenWarn s
  · exact fetchHost_lenWarn _
  · exact fetchEngine_lenWarn _

theorem availAnswer_keeps_lenWarn {n : Nat} {s t : State} (h : availAnswer n s = .next t) : t.lenWarn = s.lenWarn := by
  obtain ⟨-, rfl⟩ | ⟨-, -, rfl⟩ | ⟨-, -, rfl⟩ := availAnswer_next h <;> rfl

/-- Of the host's register accesses only the write of 0 and reset clear `LEN_WARN` (R27). -/
theorem hostPort_clears_lenWarn {a : PortAct} {s t : State} (h : hostPort a s = .next t) (hs : s.lenWarn = true)
    (ht : t.lenWarn = false) : a = .writeLenWarn false ∨ a = .reset := by
  cases a with
  | cfgWrite w =>
    obtain ⟨-, c, -, rfl⟩ := hostCfgWrite_next h
    simp [hs] at ht
  | writeLenWarn b =>
    injection h with h
    subst h
    cases b with
    | false => exact .inl rfl
    | true => simp [hs] at ht
  | read r =>
    obtain ⟨n, a, rfl⟩ := hostRead_next h
    simp [hs] at ht
  | reset => exact .inr rfl

/-- Settles O37: no operation clears the bit (`exec_keeps`), and of the host's accesses two do. -/
theorem lenWarnIsSticky : Obligations.LenWarnIsSticky := by
  refine ⟨fun s t h hs ht => ?_, fun s => by simp [hostPort], fun s => by simp [hostPort]⟩
  rw [step_eq_runFetch] at h
  have hf := fetch_lenWarn s
  cases hfetch : fetch s with rw [hfetch] at h hf
  | instr i u =>
    obtain ⟨⟨-, hw, -⟩, -⟩ := exec_keeps h
    exact absurd (hw (hf.trans hs)) (by simp [ht])
  | port a u =>
    obtain rfl | rfl := hostPort_clears_lenWarn h (hf.trans hs) ht
    · exact ⟨u, .inl rfl⟩
    · exact ⟨u, .inr rfl⟩
  | avail n u => exact absurd ((availAnswer_keeps_lenWarn h).trans (hf.trans hs)) (by simp [ht])
  | wait u =>
    injection h with h
    subst h
    exact absurd (hf.trans hs) (by simp [ht])
  | reject => cases h
  | stop => cases h

end Sys2Proof.Machine
end


section
/-! SUPPORT. The host's accesses: table ports, FIELD rows and views, reset values, register reads, and the words of the
host's transactions (10_state.md). -/

namespace Sys2Proof.Machine

open Sys2Proof.Claims

/-! Table ports. -/

/-- After a table port write each entry reads as written or as before (R31). -/
theorem get_setLenTable {cfg : Cfg} (hr : LenTable.wf cfg.retLen = true) (hc : LenTable.wf cfg.cmdLen = true)
    (cls cls' : MsgClass) (id id' : Byte) (e : LenEntry) :
    LenTable.get (tableOf (setLenTable cfg cls id e) cls') id'.toNat =
      if cls' = cls ∧ id' = id then e else LenTable.get (tableOf cfg cls') id'.toNat := by
  have hid : id'.toNat = id.toNat ↔ id' = id := BitVec.toNat_inj
  cases cls with
  | command =>
    cases cls' with
    | command => simp [setLenTable, tableOf, LenTable.get_set hc, hid]
    | ret => simp [setLenTable, tableOf]
  | ret =>
    cases cls' with
    | command => simp [setLenTable, tableOf]
    | ret => simp [setLenTable, tableOf, LenTable.get_set hr, hid]

theorem applyCfgWrite_lenTable (cfg : Cfg) (cls : MsgClass) (id : Byte) (valid : Bool) {len : BitVec 7}
    (h : len.toNat ≤ 64) :
    applyCfgWrite cfg (.lenTable cls id valid len) = some (setLenTable cfg cls id ⟨valid, len.toNat⟩) := by
  simp [applyCfgWrite, h]

/-- Settles O42: by reading after writing in a canonical table, and by the canonical form a write keeps. -/
theorem tableWriteIsReadBack : Obligations.TableWriteIsReadBack := by
  intro s cls id valid len hb hlen hr hc
  have hw := applyCfgWrite_lenTable s.cfg cls id valid hlen
  refine ⟨_, by simp [hostPort, hostCfgWrite, hb, hw], ?_, fun cls' id' hne => ?_, applyCfgWrite_wf hw hr hc⟩
  · simp [LenTable.lookup, get_setLenTable hr hc]
  · rw [get_setLenTable hr hc, if_neg (by tauto)]

/-! FIELD rows. -/

/-- The value of a status field from its container bytes. -/
def fieldResult (cfg : Cfg) (c : List Byte) : FieldSel → Result
  | .ampStable => .flag (ampStableOf cfg c)
  | .ampSysstat => .systemStatus (ampSysstatOf cfg c)
  | .ampDrvunlock => .driverUnlock (ampDrvunlockOf cfg c)
  | .ampDrvcur => .scaledList (ampDrvcurOf cfg c)
  | .ampPdval => .numbers (ampPdvalOf cfg c)
  | .ampPdstat => .pdStatus (ampPdstatOf cfg c)
  | .ampTemp => .scaledList (ampTempOf cfg c)
  | .seedTset => .scaled (seedTsetOf cfg c)
  | .seedTact => .scaled (seedTactOf cfg c)
  | .seedTdiode => .scaled (seedTdiodeOf cfg c)
  | .seedIset => .number (seedIsetOf cfg c)
  | .seedIact => .number (seedIactOf cfg c)
  | .seedPiezo => .scaled (seedPiezoOf cfg c)
  | .seedWavelen => .scaled (seedWavelenOf cfg c)
  | .seedPower => .number (seedPowerOf cfg c)
  | .seedEmission => .flag (seedEmissionOf cfg c)
  | .seedRunh => .number (seedRunhOf cfg c)
  | .seedRunm => .number (seedRunmOf cfg c)
  | .seedGrating => .scaledList (seedGratingOf cfg c)

theorem exec_fieldInstr (c : List Byte) (sel : FieldSel) (s : State) :
    exec (fieldInstr c sel) s = evalField sel c (fieldResult s.cfg c sel) s := by cases sel <;> rfl

/-- An extractor gives the value of its field's container bytes in the payload. -/
theorem exec_extractorOf (p : List Byte) (sel : FieldSel) (s : State) :
    exec (extractorOf p sel) s =
      decodeStatus (payLenOf sel) p (fieldResult s.cfg (fieldContainer s.cfg p sel) sel) s := by cases sel <;> rfl

theorem evalField_size {sel : FieldSel} {c : List Byte} {s : State} (h : c.length = fieldSize s.cfg sel) (r : Result) :
    evalField sel c r s = .next { s with res := s.res ++ [.readback r] } := by simp [evalField, h]

/-- A status decoder on a payload of its length ends well. -/
theorem decodeStatus_completes {want : Nat} {p : List Byte} {s : State} (hb : s.busy = false) (hp : p.length = want)
    (r : Result) :
    decodeStatus want p r s = .next (ends { s with wstate := .idle } .none (Config.freeErrInfo s.fresh) r) := by
  simp [decodeStatus, startPure, hb, hp, State.complete, State.finish, ends]

theorem fieldSlice_length {n : Nat} {f : FieldSpec} (h : FieldSpec.fits n f = true) {p : List Byte} (hp : p.length = n) :
    (fieldSlice f p).length = FieldSpec.size f := by
  have hf : f.offset + f.width * f.count ≤ n := of_decide_eq_true h
  rw [fieldSlice, List.length_take, List.length_drop, hp, FieldSpec.size]
  omega

theorem emissionSlice_length {n : Nat} {e : EmissionSpec} (h : e.offset < n) {p : List Byte} (hp : p.length = n) :
    (emissionSlice e p).length = 1 := by
  rw [emissionSlice, List.length_take, List.length_drop, hp]
  omega

theorem gratingSlice_length {n : Nat} {gs : List FieldSpec} (h : ∀ g ∈ gs, FieldSpec.fits n g = true) {p : List Byte}
    (hp : p.length = n) : (gratingSlice gs p).length = (gs.map FieldSpec.size).sum := by
  rw [gratingSlice, List.length_flatMap]
  exact congrArg List.sum (List.map_congr_left fun g hg => fieldSlice_length (h g hg) hp)

/-- Every field of an amplifier layout PFP is built with lies inside the payload (R64). -/
theorem ampFields_fit {l : AmpLayout} (h : AmpLayout.fits l = true) :
    ∀ f ∈ [l.stable, l.systemStatus, l.driverUnlock, l.driverCurrent, l.pdValue, l.pdStatus, l.temperatures],
      FieldSpec.fits 64 f = true := by
  simp only [AmpLayout.fits, FieldSpec.fitsOne, Bool.and_eq_true, List.all_cons, List.all_nil] at h
  simp only [List.forall_mem_cons]
  tauto

/-- Every field of a seed layout PFP is built with lies inside the payload (R64). -/
theorem seedFields_fit {l : SeedLayout} (h : SeedLayout.fits l = true) :
    (∀ f ∈ [l.temperatureSet, l.temperatureAct, l.temperatureDiode, l.currentSet, l.currentAct, l.piezoVoltage,
      l.wavelength, l.power, l.runHours, l.runMinutes], FieldSpec.fits 40 f = true) ∧
    l.emission.offset < 40 ∧ ∀ g ∈ l.grating, FieldSpec.fits 40 g = true := by
  simp only [SeedLayout.fits, Bool.and_eq_true, decide_eq_true_eq] at h
  obtain ⟨⟨⟨⟨hf, he⟩, hg⟩, -⟩, -⟩ := h
  have hone : ∀ {fs : List FieldSpec}, fs.all (FieldSpec.fitsOne seedPayLen) = true →
      ∀ f ∈ fs, FieldSpec.fits 40 f = true := fun hall f hmem =>
    (Bool.and_eq_true_iff.mp (List.all_eq_true.mp hall f hmem)).1
  exact ⟨hone hf, he, hone hg⟩

/-- In a payload of its status' length every container has the size its layout says (R95). -/
theorem fieldContainer_length (cfg : Cfg) (sel : FieldSel) {p : List Byte} (hp : p.length = payLenOf sel) :
    (fieldContainer cfg p sel).length = fieldSize cfg sel := by
  have ha := ampFields_fit cfg.amp.property
  obtain ⟨hs, he, hg⟩ := seedFields_fit cfg.seed.property
  cases sel with
  | seedEmission => exact emissionSlice_length he hp
  | seedGrating => exact gratingSlice_length hg hp
  | ampStable | ampSysstat | ampDrvunlock | ampDrvcur | ampPdval | ampPdstat | ampTemp =>
    exact fieldSlice_length (ha _ (by simp)) hp
  | _ => exact fieldSlice_length (hs _ (by simp)) hp

/-- Settles O55: row and extractor give the same function of the container bytes, whose size the layout warrants. -/
theorem fieldRowsAgreeWithTheExtractors : Obligations.FieldRowsAgreeWithTheExtractors := by
  refine fun s u sel => ⟨fun p hb hcfg hp => ?_, fun c hc => ?_⟩
  · refine ⟨fieldResult s.cfg (fieldContainer s.cfg p sel) sel, ?_, .idle, Config.freeErrInfo u.fresh, ?_⟩
    · rw [exec_fieldInstr, evalField_size (fieldContainer_length s.cfg sel hp)]
    · rw [exec_extractorOf, decodeStatus_completes hb hp, hcfg]
  · exact ⟨fieldResult s.cfg c sel, by rw [exec_fieldInstr, evalField_size hc]⟩

/-! Reset. -/

/-- Settles O29: nothing is held and nothing runs; the two tables are canonical. -/
theorem invariantHoldsAtReset : Obligations.InvariantHoldsAtReset where
  busyRun := by decide
  ctlIdle := by decide
  heldOnlyByEngine _ := ⟨rfl, rfl⟩
  replayBound := .inl rfl
  bufHeader := nofun
  bufStart := nofun
  bufShort := nofun
  noFrameHeld := nofun
  dispatchMessage := nofun
  availRun := nofun
  txRun := nofun
  awaitWaiting := nofun
  sendFrame := nofun
  configuredRun h := absurd rfl h
  slotAmpSize := rfl
  slotSeedSize := rfl
  lastMsgReceived := nofun
  retLenWf := resetCfg_retLen_wf
  cmdLenWf := rfl

theorem resetCfg_retLen_lookup (id : Byte) :
    LenTable.lookup resetCfg.retLen id = if id = 0xB7#8 then some 40 else none := by
  by_cases h : id = 0xB7#8
  · subst h
    rfl
  · have hn : (0xB7 : Nat) ≠ id.toNat := fun hid => h (BitVec.eq_of_toNat_eq hid.symm)
    simp [LenTable.lookup, resetCfg, cfgAfterReset, LenTable.get, hn, h, LenTable.empty]

/-- Settles O43: the registers by computation, the tables by `resetCfg_retLen_lookup`. -/
theorem resetValues : Obligations.ResetValues :=
  ⟨rfl, rfl, rfl, rfl, rfl, rfl, rfl, rfl, rfl, rfl, rfl, rfl, rfl, rfl, rfl, rfl, resetCfg_retLen_lookup, fun _ => rfl⟩

/-! The host's next transaction. -/

theorem fetch_idle {s : State} (hb : s.busy = false) (ht : s.turns = []) : fetch s = fetchHost s := by
  simp [fetch, hb, ht]

theorem runFetch_fetchWord_ok {p : Packet} {s : State} {i : Instr} (h : decode s.cfg p = .ok i) :
    runFetch (fetchWord p s) = exec i s := by simp [fetchWord, h, runFetch]

theorem runFetch_fetchWord_error {p : Packet} {s : State} {e : DecodeError} (h : decode s.cfg p = .error e) :
    runFetch (fetchWord p s) = .refused (.undecodable e) := by simp [fetchWord, h, runFetch]

/-- An idle machine takes an OP word (R40). -/
theorem step_op {s : State} (hb : s.busy = false) (ht : s.turns = []) {w : List Byte} {rest : List HostAct}
    (hh : s.host = .op w :: rest) : step s = runFetch (fetchWord ⟨.op, w⟩ { s with host := rest }) := by
  rw [step_eq_runFetch, fetch_idle hb ht, fetchHost, hh]

/-- While `BUSY = 0` a slot's bytes are read as they stand, and nothing is used up (R67). -/
theorem slotBytes_idle {s : State} (hb : s.busy = false) (sel : SlotSel) : slotBytes sel s = (s.slot sel).raw := by
  simp [slotBytes, hb]

theorem afterSlotRead_idle {s : State} (hb : s.busy = false) (sel : SlotSel) : s.afterSlotRead sel = s := by
  rw [State.afterSlotRead, if_neg (by simp [hb])]

theorem fetchField_invalid {s : State} {sel : FieldSel} (hv : (s.slot (fieldSlot sel)).valid = false) :
    fetchField sel s = .reject .slotInvalid := by simp [fetchField, hv]

theorem fetchField_idle {s : State} (hb : s.busy = false) {sel : FieldSel}
    (hv : (s.slot (fieldSlot sel)).valid = true) :
    fetchField sel s = fetchWord ⟨.field sel, fieldContainer s.cfg (s.slot (fieldSlot sel)).raw sel⟩ s := by
  simp [fetchField, hv, slotBytes_idle hb, afterSlotRead_idle hb]

/-- Settles O34: one equation per kind of transaction. -/
theorem stepRunsTheDecodedHostWord : Obligations.StepRunsTheDecodedHostWord := by
  intro s hb ht
  have hstep : step s = runFetch (fetchHost s) := by rw [step_eq_runFetch, fetch_idle hb ht]
  refine ⟨fun hh => ?_, fun w rest hh => ⟨fun i hi => ?_, fun e he => ?_⟩, fun a rest hh => ?_, fun sel rest hh => ?_⟩
  · rw [hstep, fetchHost, hh]
    rfl
  · exact (step_op hb ht hh).trans (runFetch_fetchWord_ok hi)
  · exact (step_op hb ht hh).trans (runFetch_fetchWord_error he)
  · rw [hstep, fetchHost, hh]
    rfl
  · have hfield : step s = runFetch (fetchField sel { s with host := rest }) := by rw [hstep, fetchHost, hh]
    refine ⟨fun i hv hi => ?_, fun hv => ?_⟩
    · have hf := fetchField_idle (s := { s with host := rest }) hb hv
      exact (hfield.trans (congrArg runFetch hf)).trans (runFetch_fetchWord_ok hi)
    · have hf := fetchField_invalid (s := { s with host := rest }) hv
      exact hfield.trans (congrArg runFetch hf)

/-- An OP word whose code is outside R42 decodes to nothing. -/
theorem decodeOpWord_undefined {code : Byte} (h1 : ¬(1 ≤ code.toNat ∧ code.toNat ≤ 0x0A))
    (h2 : ¬(0x10 ≤ code.toNat ∧ code.toNat ≤ 0x16)) (h3 : ¬(0x20 ≤ code.toNat ∧ code.toNat ≤ 0x2B))
    (operands : List Byte) : decodeOpWord (code :: operands) = .error (.undefinedOpCode code) := by
  unfold decodeOpWord
  dsimp only
  split
  case h_30 => rfl
  all_goals omega

/-- Settles O58: the decoder names the code, and the step refuses what the decoder rejects. -/
theorem undefinedOperationCodesAreRefused : Obligations.UndefinedOperationCodesAreRefused := by
  intro s code operands rest hb ht hh h1 h2 h3
  exact (step_op hb ht hh).trans (runFetch_fetchWord_error (decodeOpWord_undefined h1 h2 h3 operands))

/-- Settles O59: the decoder run on seven words. -/
theorem sampleWordsDecode : Obligations.SampleWordsDecode := by
  exact ⟨rfl, rfl, rfl, rfl, rfl, rfl, rfl⟩

/-! Reads. -/

theorem readSlot_invalid {s : State} {sel : SlotSel} (hv : (s.slot sel).valid = false) (k : List Byte → Result) :
    readSlot sel k s = .refused .slotInvalid := by simp [readSlot, hv]

theorem readSlot_idle {s : State} {sel : SlotSel} (hv : (s.slot sel).valid = true) (hb : s.busy = false)
    (k : List Byte → Result) : readSlot sel k s = .next (s.answer (k (s.slot sel).raw)) := by
  simp [readSlot, hv, slotBytes_idle hb, afterSlotRead_idle hb]

theorem slotBytes_length (s : State) (sel : SlotSel) : (slotBytes sel s).length = (s.slot sel).raw.length := by
  unfold slotBytes
  dsimp only
  split
  · simp [freeBytes]
  · rfl

theorem hostRead_slotRaw {s : State} {sel : SlotSel} {i : Nat} (h : i < (s.slot sel).raw.length) :
    hostRead (.slotRaw sel i) s = readSlot sel (fun b => .byte (byteAt b i)) s := by simp [hostRead, h]

theorem hostRead_slotRaw_outside {s : State} {sel : SlotSel} {i : Nat} (h : (s.slot sel).raw.length ≤ i) :
    hostRead (.slotRaw sel i) s = .refused .noSuchPort := by simp [hostRead, Nat.not_lt.mpr h]

theorem hostRead_ampView (s : State) :
    hostRead .ampView s = readSlot .amp (fun b => .ampStatus (ampDecode s.cfg b)) s := rfl

theorem hostRead_seedView (s : State) :
    hostRead .seedView s = readSlot .seed (fun b => .seedStatus (seedDecode s.cfg b)) s := rfl

/-- A slot read whole answers as many bytes as the slot has, also while an operation runs (R67). -/
theorem readSlot_bytes {s : State} {sel : SlotSel} (hv : (s.slot sel).valid = true) :
    ∃ bytes n, bytes.length = (s.slot sel).raw.length ∧
      readSlot sel .bytes s = .next { s with fresh := n, res := s.res ++ [.readback (.bytes bytes)] } :=
  ⟨slotBytes sel s, (s.afterSlotRead sel).fresh, slotBytes_length s sel, by
    simp [readSlot, hv, State.answer, State.afterSlotRead]⟩

/-- Settles O45: by what a read of a slot does while `VALID` is 0, while idle and while an operation runs. -/
theorem slotAndMessageReadsAreGuarded : Obligations.SlotAndMessageReadsAreGuarded := by
  intro s answers
  refine ⟨fun sel => ⟨fun hv => ?_, fun hv hb => ?_, fun hv _ => readSlot_bytes hv,
    fun i hi => hostRead_slotRaw_outside hi⟩, fun hv => ?_, fun hv => ?_, fun hv hb hl => ?_, fun hv hb hl => ?_,
    fun hv => ?_, fun hv => ?_⟩
  · exact ⟨readSlot_invalid hv _, fun i hi => (hostRead_slotRaw hi).trans (readSlot_invalid hv _)⟩
  · exact ⟨readSlot_idle hv hb _, fun i hi => (hostRead_slotRaw hi).trans (readSlot_idle hv hb _)⟩
  · exact (hostRead_ampView s).trans (readSlot_invalid (sel := .amp) hv _)
  · exact (hostRead_seedView s).trans (readSlot_invalid (sel := .seed) hv _)
  · exact ⟨ampDecode s.cfg s.slotAmp.raw, (hostRead_ampView s).trans (readSlot_idle (sel := .amp) hv hb _), .idle,
      Config.freeErrInfo s.fresh, decodeStatus_completes hb hl _⟩
  · exact ⟨seedDecode s.cfg s.slotSeed.raw, (hostRead_seedView s).trans (readSlot_idle (sel := .seed) hv hb _), .idle,
      Config.freeErrInfo s.fresh, decodeStatus_completes hb hl _⟩
  · simp [hostPort, hostRead, hv]
  · simp [answers, hostPort, hostRead, hv, State.answer]

/-- The codes of R260. -/
theorem errCode_table : ∀ x ∈ [(ErrCode.none, 0#8), (.badHeader, 1#8), (.badTerminator, 2#8), (.unknownCommand, 3#8),
    (.checksumMismatch, 4#8), (.xorMismatch, 5#8), (.wrongLength, 6#8), (.payloadMissing, 7#8),
    (.transportFatal, 8#8), (.transportTimeout, 9#8), (.transportOverrun, 10#8)], errCode x.1 = x.2 := by decide

/-- The numbers of R31 for `WSTATE`. -/
theorem wstateCode_table : ∀ x ∈ [(WState.idle, 0), (.waiting, 1), (.matched, 2)], wstateCode x.1 = x.2 := by decide

/-- Settles O60: each register's read is its answer; a coded one answers the code of the value. -/
theorem registerReadsAnswerTheRegisters : Obligations.RegisterReadsAnswerTheRegisters := by
  intro s answers
  have hcoded : ∀ {q r r'}, hostRead q s = .next (s.answer r) → r = r' → answers q r' := by
    rintro q r _ h rfl
    exact h
  refine ⟨rfl, rfl, rfl, fun h => hcoded rfl (by simp [h]), fun h => hcoded rfl (by simp [h]),
    fun h => hcoded rfl (by simp [h]), fun h => hcoded rfl (by simp [h]), rfl, fun x hx h => hcoded rfl ?_, rfl, rfl, rfl,
    fun x hx h => hcoded rfl ?_, rfl, rfl, rfl, rfl, fun cls id => ⟨_, rfl, rfl⟩⟩
  · rw [h, errCode_table x hx]
  · rw [h, wstateCode_table x hx]

end Sys2Proof.Machine
end


section
/-! SUPPORT. The RX queue and the configuration registers: which step takes an event, and what a configuration write
leaves (20_memory.md). -/

namespace Sys2Proof.Machine

/-! The RX queue. -/

/-- No RX event is taken and none is counted. -/
def KeepsRx (s t : State) : Prop := t.rx = s.rx ∧ t.consumed = s.consumed

theorem exec_keepsRx {i : Instr} {s t : State} (h : exec i s = .next t) : KeepsRx s t := by
  obtain ⟨⟨hq, -⟩, -⟩ := exec_keeps h
  exact ⟨congrArg Queues.rx hq, congrArg Queues.consumed hq⟩

theorem availAnswer_keepsRx {n : Nat} {s t : State} (h : availAnswer n s = .next t) : KeepsRx s t := by
  obtain ⟨-, rfl⟩ | ⟨-, -, rfl⟩ | ⟨-, -, rfl⟩ := availAnswer_next h
  · exact ⟨rfl, rfl⟩
  · exact ⟨rfl, rfl⟩
  · exact ⟨rfl, rfl⟩

/-- Reset too leaves what the transport holds, and the count of what was taken (log entry 23). -/
theorem hostPort_keepsRx {a : PortAct} {s t : State} (h : hostPort a s = .next t) : KeepsRx s t := by
  cases a with
  | cfgWrite w =>
    obtain ⟨-, c, -, rfl⟩ := hostCfgWrite_next h
    exact ⟨rfl, rfl⟩
  | read r =>
    obtain ⟨n, a, rfl⟩ := hostRead_next h
    exact ⟨rfl, rfl⟩
  | writeLenWarn | reset =>
    injection h with h
    subst h
    exact ⟨rfl, rfl⟩

/-- Only the move that takes an RX event touches the queue, and it takes the head. -/
theorem Takes.rx_cases {s t : State} {o : StepResult} (h : Takes s o) (ho : o = .next t) :
    KeepsRx s t ∨ ∃ w, s.rx = w :: t.rx ∧ t.consumed = s.consumed + 1 := by
  cases h with
  | waits =>
    injection ho with ho
    subst ho
    exact .inl ⟨rfl, rfl⟩
  | event w rest _ _ hrx =>
    obtain ⟨ht, hc⟩ := exec_keepsRx ho
    exact .inr ⟨w, by rw [hrx, ht], hc⟩
  | op | field | replay | frame | dispatch | tx =>
    have hkeeps := exec_keepsRx ho
    exact .inl hkeeps
  | port =>
    have hkeeps := hostPort_keepsRx ho
    exact .inl hkeeps
  | avail =>
    have hkeeps := availAnswer_keepsRx ho
    exact .inl hkeeps
  | reject => cases ho
  | stop => cases ho

/-- Settles O38: a step is one move, and taking the turn touches neither the queue nor the count. -/
theorem rxEventsAreTakenOnceInOrder : Obligations.RxEventsAreTakenOnceInOrder := by
  intro s t h
  obtain ⟨_, htakes⟩ := step_takes s
  exact htakes.rx_cases h

/-! Configuration writes. -/

/-- While `BUSY = 0` a configuration write that `applyCfgWrite` accepts changes `CFG` as it says, and nothing else
(R74). -/
theorem hostPort_cfgWrite_idle {w : CfgWrite} {s : State} {c : Cfg} (hb : s.busy = false)
    (hw : applyCfgWrite s.cfg w = some c) : hostPort (.cfgWrite w) s = .next { s with cfg := c } := by
  simp [hostPort, hostCfgWrite, hb, hw]

theorem hostPort_cfgWrite_rejected {w : CfgWrite} {s : State} (hb : s.busy = false)
    (hw : applyCfgWrite s.cfg w = none) : hostPort (.cfgWrite w) s = .refused .tableLengthTooLarge := by
  simp [hostPort, hostCfgWrite, hb, hw]

theorem applyCfgWrite_lenTable_too_large (cfg : Cfg) (cls : MsgClass) (id : Byte) (valid : Bool) {len : BitVec 7}
    (h : 64 < len.toNat) : applyCfgWrite cfg (.lenTable cls id valid len) = none := by
  simp [applyCfgWrite, Nat.not_le.mpr h]

/-- Settles O41: `applyCfgWrite` accepts every register write, and no table length above 64. -/
theorem configurationWritesAreSeen : Obligations.ConfigurationWritesAreSeen := by
  intro s hb
  exact ⟨fun _ => hostPort_cfgWrite_idle hb rfl, fun _ => hostPort_cfgWrite_idle hb rfl,
    fun _ _ => hostPort_cfgWrite_idle hb rfl, fun _ => hostPort_cfgWrite_idle hb rfl,
    fun _ => hostPort_cfgWrite_idle hb rfl, fun _ => hostPort_cfgWrite_idle hb rfl, fun cls id valid _ hlen =>
      hostPort_cfgWrite_rejected hb (applyCfgWrite_lenTable_too_large s.cfg cls id valid hlen)⟩

end Sys2Proof.Machine
end


section
/-! SUPPORT. Words and operations: decoding the word of an operation, encoding what a word decodes to, and the frame that
DECODE hands to DISPATCH (30_encoding.md). -/

namespace Sys2Proof.Machine

open Sys2Proof.Laws

/-! From an operation to its word and back. -/

/-- The round trips of `Laws.RoundTrip`, put together: every row of the table has one. -/
theorem decode_encode : ∀ i : Instr, RoundTrip.Statement i
  | .frameSeedStatus _ _ _ => RoundTrip.frameSeedStatus _ _ _
  | .frameAmpStatus _ _ _ => RoundTrip.frameAmpStatus _ _ _
  | .frameRet _ _ _ _ => RoundTrip.frameRet _ _ _ _
  | .frameCmd _ _ _ _ => RoundTrip.frameCmd _ _ _ _
  | .rxByte _ => RoundTrip.rxByte _
  | .rxOverrun _ => RoundTrip.rxOverrun _
  | .rxFatal _ => RoundTrip.rxFatal _
  | .rxTimeout _ => RoundTrip.rxTimeout _
  | .chk _ => RoundTrip.chk _
  | .xorchk _ => RoundTrip.xorchk _
  | .encodeOp _ _ _ _ => RoundTrip.encodeOp _ _ _ _
  | .decodeOp _ _ _ => RoundTrip.decodeOp _ _ _
  | .recv => RoundTrip.recv
  | .drain => RoundTrip.drain
  | .await _ => RoundTrip.await _
  | .send _ _ _ => RoundTrip.send _ _ _
  | .ampdec _ => RoundTrip.ampdec _
  | .seeddec _ => RoundTrip.seeddec _
  | .ampStable _ => RoundTrip.ampStable _
  | .ampSysstat _ => RoundTrip.ampSysstat _
  | .ampDrvunlock _ => RoundTrip.ampDrvunlock _
  | .ampDrvcur _ => RoundTrip.ampDrvcur _
  | .ampPdval _ => RoundTrip.ampPdval _
  | .ampPdstat _ => RoundTrip.ampPdstat _
  | .ampTemp _ => RoundTrip.ampTemp _
  | .seedTset _ => RoundTrip.seedTset _
  | .seedTact _ => RoundTrip.seedTact _
  | .seedTdiode _ => RoundTrip.seedTdiode _
  | .seedIset _ => RoundTrip.seedIset _
  | .seedIact _ => RoundTrip.seedIact _
  | .seedPiezo _ => RoundTrip.seedPiezo _
  | .seedWavelen _ => RoundTrip.seedWavelen _
  | .seedPower _ => RoundTrip.seedPower _
  | .seedEmission _ => RoundTrip.seedEmission _
  | .seedRunh _ => RoundTrip.seedRunh _
  | .seedRunm _ => RoundTrip.seedRunm _
  | .seedGrating _ => RoundTrip.seedGrating _
  | .fieldAmpStable _ => RoundTrip.fieldAmpStable _
  | .fieldAmpSysstat _ => RoundTrip.fieldAmpSysstat _
  | .fieldAmpDrvunlock _ => RoundTrip.fieldAmpDrvunlock _
  | .fieldAmpDrvcur _ => RoundTrip.fieldAmpDrvcur _
  | .fieldAmpPdval _ => RoundTrip.fieldAmpPdval _
  | .fieldAmpPdstat _ => RoundTrip.fieldAmpPdstat _
  | .fieldAmpTemp _ => RoundTrip.fieldAmpTemp _
  | .fieldSeedTset _ => RoundTrip.fieldSeedTset _
  | .fieldSeedTact _ => RoundTrip.fieldSeedTact _
  | .fieldSeedTdiode _ => RoundTrip.fieldSeedTdiode _
  | .fieldSeedIset _ => RoundTrip.fieldSeedIset _
  | .fieldSeedIact _ => RoundTrip.fieldSeedIact _
  | .fieldSeedPiezo _ => RoundTrip.fieldSeedPiezo _
  | .fieldSeedWavelen _ => RoundTrip.fieldSeedWavelen _
  | .fieldSeedPower _ => RoundTrip.fieldSeedPower _
  | .fieldSeedEmission _ => RoundTrip.fieldSeedEmission _
  | .fieldSeedRunh _ => RoundTrip.fieldSeedRunh _
  | .fieldSeedRunm _ => RoundTrip.fieldSeedRunm _
  | .fieldSeedGrating _ => RoundTrip.fieldSeedGrating _
  | .dispatchSeed _ => RoundTrip.dispatchSeed _
  | .dispatchAmp _ => RoundTrip.dispatchAmp _
  | .dispatchNone _ => RoundTrip.dispatchNone _

/-- Settles O56: the round trip of every row. -/
theorem decodeGivesEncodedOperationBack : Obligations.DecodeGivesEncodedOperationBack :=
  fun c i => decode_encode i c

/-! From a word to its operation and back. -/

/-- The row R84 chooses is well-formed, and its word is the frame it was chosen for. -/
theorem frameInstr_ok {cfg : Cfg} {cls : MsgClass} {addr cmd : Byte} {p : List Byte} {tr : Trailer} {i : Instr}
    (h : frameInstr cfg cls addr cmd p tr = .ok i) (hp : p.length ≤ 255) :
    i.wf cfg = true ∧ encode cfg i = ⟨.frame cls, frameBytes cfg.header addr cmd p tr⟩ := by
  unfold frameInstr at h
  cases cls with
  | command =>
    dsimp only at h
    split at h
    · cases h
      exact ⟨by simpa [Instr.wf], rfl⟩
    · cases h
  | ret =>
    dsimp only at h
    split at h
    next hseed =>
      obtain ⟨rfl, hlen⟩ := hseed
      cases h
      exact ⟨by simp [Instr.wf, hlen], rfl⟩
    next hseed =>
      split at h
      next hamp =>
        obtain ⟨rfl, hlen⟩ := hamp
        cases h
        exact ⟨by simp [Instr.wf, hlen], rfl⟩
      next hamp =>
        cases h
        exact ⟨by simpa [Instr.wf, hp] using ⟨not_and_or.mp hseed, not_and_or.mp hamp⟩, rfl⟩

/-- What R80 asks of a frame word: its size is `9 + LEN`, its first two bytes are `HDR` and zero. -/
theorem decodeFrameWord_shape {cfg : Cfg} {cls : MsgClass} {w : List Byte} {i : Instr}
    (h : decodeFrameWord cfg cls w = .ok i) :
    w.length = 9 + (byteAt w 4).toNat ∧ byteAt w 0 = cfg.header ∧ byteAt w 1 = 0x00#8 := by
  unfold decodeFrameWord at h
  split at h
  next hd z addr cmd len rest =>
    split at h
    · cases h
    next hhd =>
      split at h
      · cases h
      next hz =>
        split at h
        · cases h
        next hlen =>
          have hsize : rest.length + 5 = 9 + len.toNat := by omega
          exact ⟨hsize, not_not.mp hhd, not_not.mp hz⟩
  next => cases h

/-- A frame word that decodes is the frame of its own fields, and its row is the one R84 chooses. -/
theorem decodeFrameWord_ok {cfg : Cfg} {cls : MsgClass} {w : List Byte} {i : Instr}
    (h : decodeFrameWord cfg cls w = .ok i) :
    ∃ (addr cmd : Byte) (p : List Byte) (tr : Trailer), p.length ≤ 255 ∧ w = frameBytes cfg.header addr cmd p tr ∧
      frameInstr cfg cls addr cmd p tr = .ok i := by
  obtain ⟨hlen, hhd, hz⟩ := decodeFrameWord_shape h
  obtain ⟨hd, z, addr, cmd, p, tr, hp, -, rfl⟩ := exists_frame_of_length hlen
  obtain rfl : hd = cfg.header := hhd
  obtain rfl : z = 0x00#8 := hz
  exact ⟨addr, cmd, p, tr, hp, rfl, (RoundTrip.decodeFrameWord_frameBytes cfg cls addr cmd p tr hp).symm.trans h⟩

/-- Kind and data of an RX event are the whole word (R41). -/
theorem decodeRxWord_ok {w : List Byte} {i : Instr} (h : decodeRxWord w = .ok i) (cfg : Cfg) :
    i.wf cfg = true ∧ encode cfg i = ⟨.rxev, w⟩ := by
  unfold decodeRxWord at h
  split at h
  next kind data =>
    have hword {k : Byte} (hk : kind.toNat = k.toNat) : (⟨.rxev, [k, data]⟩ : Packet) = ⟨.rxev, [kind, data]⟩ := by
      rw [BitVec.eq_of_toNat_eq hk]
    split at h
    next hk => cases h; exact ⟨rfl, hword hk⟩
    next hk => cases h; exact ⟨rfl, hword hk⟩
    next hk => cases h; exact ⟨rfl, hword hk⟩
    next hk => cases h; exact ⟨rfl, hword hk⟩
    next => cases h
  next => cases h

/-- R95 asks nothing of an OP word's operands, so every host operation is well-formed. -/
theorem wf_of_chan_op {i : Instr} (h : (encode resetCfg i).chan = .op) (cfg : Cfg) : i.wf cfg = true := by
  cases i with
  | chk | xorchk | encodeOp | decodeOp | recv | drain | await | send | ampdec | seeddec | ampStable | ampSysstat
  | ampDrvunlock | ampDrvcur | ampPdval | ampPdstat | ampTemp | seedTset | seedTact | seedTdiode | seedIset | seedIact
  | seedPiezo | seedWavelen | seedPower | seedEmission | seedRunh | seedRunm | seedGrating => rfl
  | _ => cases h

theorem wf_fieldInstr (cfg : Cfg) (c : List Byte) (sel : FieldSel) :
    (fieldInstr c sel).wf cfg = (c.length == fieldSize cfg sel) := by cases sel <;> rfl

theorem encode_fieldInstr (cfg : Cfg) (c : List Byte) (sel : FieldSel) :
    encode cfg (fieldInstr c sel) = ⟨.field sel, c⟩ := by cases sel <;> rfl

/-- The row R180 chooses for a Message has the Message's command byte as its key. -/
theorem dispatchInstr_wf_encode (cfg : Cfg) (m : Message) :
    (dispatchInstr cfg m).wf cfg = true ∧ encode cfg (dispatchInstr cfg m) = ⟨.dispatch m, [m.command]⟩ := by
  unfold dispatchInstr
  split
  next hamp => exact ⟨by simp [Instr.wf, hamp], rfl⟩
  next hamp =>
    split
    next hseed => exact ⟨by simp [Instr.wf, hseed, hseed ▸ hamp], rfl⟩
    next hseed => exact ⟨by simp [Instr.wf, hseed, hamp], rfl⟩

/-- A DISPATCH word decodes to the row of its Message, whose key it is. -/
theorem decode_dispatch {cfg : Cfg} {m : Message} {w : List Byte} {i : Instr} (h : decode cfg ⟨.dispatch m, w⟩ = .ok i) :
    w = [m.command] ∧ i = dispatchInstr cfg m := by
  simp only [decode] at h
  split at h
  next hw => exact ⟨hw, by injection h with h; exact h.symm⟩
  next => cases h

/-- Settles O57: one inversion of the decoder per channel. -/
theorem decodedWordsEncodeBack : Obligations.DecodedWordsEncodeBack := by
  rintro c ⟨chan, w⟩ i h
  cases chan with
  | frame cls =>
    obtain ⟨addr, cmd, p, tr, hp, rfl, hi⟩ := decodeFrameWord_ok h
    obtain ⟨hwf, hword⟩ := frameInstr_ok hi hp
    exact ⟨hwf, fun _ => hword⟩
  | rxev =>
    obtain ⟨hwf, hword⟩ := decodeRxWord_ok h c
    exact ⟨hwf, fun _ => hword⟩
  | op => exact ⟨wf_of_chan_op (decodeOpWord_chan h) c, by simp⟩
  | field sel =>
    obtain ⟨hsize, rfl⟩ := decode_field h
    exact ⟨by simp [wf_fieldInstr, hsize], fun _ => encode_fieldInstr c w sel⟩
  | dispatch m =>
    obtain ⟨rfl, rfl⟩ := decode_dispatch h
    obtain ⟨hwf, hword⟩ := dispatchInstr_wf_encode c m
    exact ⟨hwf, fun _ => hword⟩

/-! From a received frame to its Message. -/

/-- While an operation runs, a received frame that DECODE answers with a Message goes on to DISPATCH (R155). -/
theorem receiveFrameWord_message {raw : List Byte} {s : State} {m : Message} (hrun : s.run ≠ .none)
    (hm : codecDecode s.cfg raw s.cfg.addr .ret = .message m) :
    receiveFrameWord raw s = .next { s with buf := [], lenWarn := s.lenWarn || m.warn, ctl := .dispatch m } := by
  simp [receiveFrameWord, receiveFrame, hrun, hm]

/-- Settles O15: the three received rows hand the same frame to DECODE, and `codecDecode_frame` gives its Message. -/
theorem receivedFrameGoesToDispatch : Obligations.ReceivedFrameGoesToDispatch := by
  rintro s cmd p tr lt body i hrun hp rfl htr hlt hi
  have hexec : exec i s = receiveFrameWord (frameBytes s.cfg.header s.cfg.addr cmd p tr) s := by
    obtain ⟨rfl, -, rfl⟩ | ⟨rfl, -, rfl⟩ | rfl := hi
    · rfl
    · rfl
    · rfl
  rw [hexec, receiveFrameWord_message hrun (codecDecode_frame hp hlt htr)]
  simp [frameBytes, bne, beq_eq_decide]

end Sys2Proof.Machine
end


section
/-! SUPPORT. The two checks as functions of their bytes, and the operations that answer them (40_checksum.md). -/

namespace Sys2Proof.Machine

open Sys2Proof.Claims

/-! The operations. -/

/-- An idle machine ends a pure operation in the step that starts it (R25, R28). -/
theorem startPure_complete {s : State} (hb : s.busy = false) (r : Result) :
    startPure s (fun t => .next (t.complete r)) =
      .next (ends { s with wstate := .idle } .none (Config.freeErrInfo s.fresh) r) := by
  simp [startPure, hb, State.complete, State.finish, ends]

theorem chk_completes (p : List Byte) {s : State} (hb : s.busy = false) : Completes (.chk p) s (.byte (sum8 p)) :=
  ⟨_, _, startPure_complete hb _⟩

theorem xorchk_completes (p : List Byte) {s : State} (hb : s.busy = false) :
    Completes (.xorchk p) s (.byte (xor8 p)) :=
  ⟨_, _, startPure_complete hb _⟩

/-! What the checks are. -/

theorem sum8_eq_ofNat_sum (p : List Byte) : sum8 p = BitVec.ofNat 8 (p.map BitVec.toNat).sum := by
  induction p with
  | nil => rfl
  | cons b p ih => simp [sum8, ih, BitVec.ofNat_add]

/-- A byte that has the bit flips its parity, and one that has not keeps it. -/
theorem getLsbD_xor8 (p : List Byte) (k : Nat) :
    (xor8 p).getLsbD k = ((p.filter fun b => b.getLsbD k).length % 2 == 1) := by
  induction p with
  | nil => simp [xor8]
  | cons b p ih =>
    rw [xor8, BitVec.getLsbD_xor, ih]
    cases hk : b.getLsbD k with
    | false => simp [hk]
    | true =>
      rw [List.filter_cons, if_pos hk, List.length_cons, Bool.true_xor, Bool.eq_iff_iff]
      simp only [Bool.not_eq_true', beq_eq_false_iff_ne, beq_iff_eq]
      omega

/-- Settles O1: CHK answers `sum8`, which is the sum of the bytes modulo 256. -/
theorem chkAnswersSumModulo256 : Obligations.ChkAnswersSumModulo256 := by
  intro p s hb
  rw [← sum8_eq_ofNat_sum]
  exact chk_completes p hb

/-- Settles O2: XORCHK answers `xor8`, whose bits are the parities. -/
theorem xorchkAnswersBitParity : Obligations.XorchkAnswersBitParity :=
  fun p _ hb => ⟨xor8 p, xorchk_completes p hb, fun k _ => getLsbD_xor8 p k⟩

/-! Concatenation, change and exchange. -/

theorem ofNat_sum8_append (a b : List Byte) :
    BitVec.ofNat 8 (((sum8 a).toNat + (sum8 b).toNat) % 256) = sum8 (a ++ b) := by
  rw [sum8_append, ← BitVec.toNat_inj, BitVec.toNat_ofNat, BitVec.toNat_add, Nat.mod_mod]

/-- Settles O3: by what both checks give on a concatenation. -/
theorem checksAreIncremental : Obligations.ChecksAreIncremental := by
  intro a b s hb
  refine ⟨sum8 a, sum8 b, xor8 a, xor8 b, chk_completes a hb, chk_completes b hb, ?_, xorchk_completes a hb,
    xorchk_completes b hb, ?_⟩
  · rw [ofNat_sum8_append]
    exact chk_completes (a ++ b) hb
  · rw [← xor8_append]
    exact xorchk_completes (a ++ b) hb

/-- The bytes around one byte cancel from an equation of sums. -/
theorem sum8_append_cons_inj (a b : List Byte) {x y : Byte} : sum8 (a ++ x :: b) = sum8 (a ++ y :: b) ↔ x = y := by
  rw [sum8_append, sum8_append, BitVec.add_right_inj, sum8, sum8, BitVec.add_left_inj]

/-- The bytes around one byte cancel from an equation of exclusive-ors. -/
theorem xor8_append_cons_inj (a b : List Byte) {x y : Byte} : xor8 (a ++ x :: b) = xor8 (a ++ y :: b) ↔ x = y := by
  rw [xor8_append, xor8_append, BitVec.xor_right_inj, xor8, xor8, BitVec.xor_left_inj]

theorem sum8_exchange (a b c : List Byte) (x y : Byte) :
    sum8 (a ++ x :: b ++ y :: c) = sum8 (a ++ y :: b ++ x :: c) := by
  simp only [sum8_append, sum8]
  ac_rfl

theorem xor8_exchange (a b c : List Byte) (x y : Byte) :
    xor8 (a ++ x :: b ++ y :: c) = xor8 (a ++ y :: b ++ x :: c) := by
  simp only [xor8_append, xor8]
  ac_rfl

/-- Settles O4: a check with all other bytes fixed is injective in one byte, and it is a sum that may be reordered. -/
theorem singleByteChangeIsSeenExchangeIsNot : Obligations.SingleByteChangeIsSeenExchangeIsNot :=
  ⟨fun a b _ _ hne => ⟨mt (sum8_append_cons_inj a b).mp hne, mt (xor8_append_cons_inj a b).mp hne⟩,
    fun a b c x y => ⟨sum8_exchange a b c x y, xor8_exchange a b c x y⟩⟩

end Sys2Proof.Machine
end

section
/-! SUPPORT. The Message Codec: which operands ENCODE takes, what DECODE's checks say of a buffer, and what a change of
one byte does to them (41_codec.md). -/

namespace Sys2Proof.Machine

open Sys2Proof.Claims

/-! ENCODE. -/

theorem codecEncode_unknown {cfg : Cfg} {cls : MsgClass} {cmd : Byte}
    (hl : LenTable.lookup (tableOf cfg cls) cmd = none) (addr : Byte) (p : Payload) :
    codecEncode cfg cls cmd addr p = .error .unknownIdentifier := by simp [codecEncode, hl]

theorem codecEncode_refused {cfg : Cfg} {cls : MsgClass} {cmd : Byte} {lt : Nat} {p : Payload} {r : Refusal}
    (hl : LenTable.lookup (tableOf cfg cls) cmd = some lt) (hp : encodePayloadBytes cfg.endian lt p = .error r)
    (addr : Byte) : codecEncode cfg cls cmd addr p = .error r := by simp [codecEncode, hl, hp]

theorem codecEncode_ok {cfg : Cfg} {cls : MsgClass} {cmd : Byte} {lt : Nat} {p : Payload} {pb : List Byte}
    (hl : LenTable.lookup (tableOf cfg cls) cmd = some lt) (hp : encodePayloadBytes cfg.endian lt p = .ok pb)
    (addr : Byte) : codecEncode cfg cls cmd addr p = .ok (encodedMessage cfg cls cmd addr pb) := by
  simp [codecEncode, hl, hp, encodedMessage, encodePayloadBytes_length hp]

/-- ENCODE takes every operand R93, R122 and R123 give bytes to, and takes those bytes. -/
theorem encodePayloadBytes_of_standsFor {e : Endian} {lt : Nat} {p : Payload} {pb : List Byte}
    (h : PayloadStandsFor e lt p pb) : encodePayloadBytes e lt p = .ok pb := by
  cases p with
  | absent =>
    obtain ⟨hlt, rfl⟩ := h
    simp [encodePayloadBytes, hlt]
  | int v =>
    obtain ⟨hlt, h0, hv, hlen, hval⟩ := h
    have hfit : v.toNat < 256 ^ lt := by omega
    have hpb : payloadOfInt e v.toNat lt = pb := by
      refine assemble_inj (e := e) ((payloadOfInt_length ..).trans hlen.symm) ?_
      rw [assemble_payloadOfInt e _ _ hfit]
      omega
    have hbad : ¬(v < 0 ∨ (256 ^ lt : Nat) ≤ v) := by omega
    simp only [encodePayloadBytes, hlt, hbad, if_false, hpb]
  | bytes b =>
    obtain ⟨hlt, hlen, rfl⟩ := h
    simp [encodePayloadBytes, hlt, hlen]

theorem encodeOp_completes {cls : MsgClass} {cmd addr : Byte} {p : Payload} {s : State} {m : Message}
    (hb : s.busy = false) (h : codecEncode s.cfg cls cmd addr p = .ok m) :
    Completes (.encodeOp cls cmd addr p) s (.message m) := by
  refine ⟨.idle, Config.freeErrInfo s.fresh, ?_⟩
  simp [exec, execEncodeOp, startPure, hb, h, State.complete, State.finish, ends]

theorem encodeOp_refused {cls : MsgClass} {cmd addr : Byte} {p : Payload} {s : State} {r : Refusal}
    (hb : s.busy = false) (h : codecEncode s.cfg cls cmd addr p = .error r) :
    exec (.encodeOp cls cmd addr p) s = .refused r := by
  simp [exec, execEncodeOp, startPure, hb, h]

theorem send_refused {cmd addr : Byte} {p : Payload} {s : State} {r : Refusal} (hb : s.busy = false)
    (hc : configured s = true) (h : codecEncode s.cfg .command cmd addr p = .error r) :
    exec (.send cmd addr p) s = .refused r := by
  simp [exec, execSend, startEngine, hb, hc, h]

/-- A Message ENCODE answers is the codec's own. -/
theorem codecEncode_of_completes {cls : MsgClass} {cmd addr : Byte} {p : Payload} {s : State} {m : Message}
    (h : Completes (.encodeOp cls cmd addr p) s (.message m)) : codecEncode s.cfg cls cmd addr p = .ok m := by
  obtain ⟨w, info, h⟩ := h
  simp only [exec] at h
  obtain ⟨-, h⟩ := startPure_next h
  split at h
  · cases h
  · rename_i m' hm'
    have hres : s.res ++ [ResEvent.opDone .none (.message m')] = s.res ++ [.opDone .none (.message m)] :=
      congrArg State.res (Host.Outcome.next.inj h)
    simp only [List.append_cancel_left_eq, List.cons.injEq, and_true, ResEvent.opDone.injEq, true_and,
      Result.message.injEq] at hres
    exact hres ▸ hm'

/-! DECODE. -/

theorem decodeOp_malformed {cls : MsgClass} {expected : Byte} {raw : List Byte} {s : State} (hb : s.busy = false)
    (h : codecDecode s.cfg raw expected cls = .malformed) :
    exec (.decodeOp cls expected raw) s = .refused .malformedBuffer := by
  simp [exec, execDecodeOp, startPure, hb, h]

/-- A FrameError ends DECODE, with what R260 records laid over the free `ERRINFO`. -/
theorem decodeOp_endsInError {cls : MsgClass} {expected : Byte} {raw : List Byte} {s : State} {e : ErrCode}
    {P : ErrInfo → Prop} (hb : s.busy = false) (h : codecDecode s.cfg raw expected cls = .error e)
    (hP : ∀ free, P (frameErrInfo e raw free)) : EndsInError (.decodeOp cls expected raw) s e P := by
  refine ⟨.idle, frameErrInfo e raw (Config.freeErrInfo s.fresh), hP _, ?_⟩
  simp [exec, execDecodeOp, startPure, hb, h, State.raise, (codecDecode_error_not_transport h).1, State.finish, ends]

theorem decodeOp_message {cls : MsgClass} {expected : Byte} {raw : List Byte} {s : State} {m : Message}
    (hb : s.busy = false) (h : codecDecode s.cfg raw expected cls = .message m) :
    exec (.decodeOp cls expected raw) s =
      .next (ends { s with wstate := .idle, lenWarn := s.lenWarn || m.warn } .none (Config.freeErrInfo s.fresh)
        (.message m)) := by
  simp [exec, execDecodeOp, startPure, hb, h, State.complete, State.finish, ends]

/-- DECODE signals a Message only when the codec answers it. -/
theorem codecDecode_of_signalled {cls : MsgClass} {expected : Byte} {raw : List Byte} {s t : State} {m : Message}
    (h : exec (.decodeOp cls expected raw) s = .next t) (hres : t.res = s.res ++ [.opDone .none (.message m)]) :
    codecDecode s.cfg raw expected cls = .message m := by
  simp only [exec] at h
  obtain ⟨-, h⟩ := startPure_next h
  split at h
  · cases h
  · rename_i e he
    cases h
    simp [State.raise, (codecDecode_error_not_transport he).1] at hres
  · rename_i m' hm'
    cases h
    simp only [State.complete_res, List.append_cancel_left_eq, List.cons.injEq, and_true, ResEvent.opDone.injEq,
      true_and, Result.message.injEq] at hres
    exact hres ▸ hm'

/-! DECODE's checks, one predicate each, and what the codec answers when the first `k` of them pass. -/

/-- The buffer has a size the codec gives a meaning to (R132). -/
def SizeOk (raw : List Byte) : Prop := raw.length = 9 + lenOf raw

/-- The first check passes (R126). -/
def StartOk (cfg : Cfg) (expected : Byte) (raw : List Byte) : Prop :=
  byteAt raw 0 = cfg.header ∧ byteAt raw 1 = 0x00#8 ∧ byteAt raw 2 = expected

/-- The second check passes (R129). -/
def TermOk (cfg : Cfg) (raw : List Byte) : Prop :=
  byteAt raw (raw.length - 2) = cfg.term0 ∧ byteAt raw (raw.length - 1) = cfg.term1

/-- The fourth check passes (R128). -/
def SumOk (raw : List Byte) : Prop := sum8 (coveredBytes raw) = byteAt raw (raw.length - 4)

/-- The fifth check passes (R128). -/
def XorOk (raw : List Byte) : Prop := xor8 (coveredBytes raw) = byteAt raw (raw.length - 3)

section Checks

variable {cfg : Cfg} {cls : MsgClass} {expected : Byte} {raw : List Byte}

/-- The codec's guards in terms of the predicates. -/
theorem not_malformed_iff : ¬(raw.length < 9 ∨ raw.length ≠ 9 + (byteAt raw 4).toNat) ↔ SizeOk raw := by
  unfold SizeOk lenOf
  omega

theorem start_bad_iff :
    (byteAt raw 0 ≠ cfg.header ∨ byteAt raw 1 ≠ 0x00#8 ∨ byteAt raw 2 ≠ expected) ↔ ¬StartOk cfg expected raw := by
  simp only [StartOk, not_and_or, ne_eq]

theorem term_bad_iff :
    (byteAt raw (raw.length - 2) ≠ cfg.term0 ∨ byteAt raw (raw.length - 1) ≠ cfg.term1) ↔ ¬TermOk cfg raw := by
  simp only [TermOk, not_and_or, ne_eq]

theorem sum_bad_iff : sum8 (coveredBytes raw) ≠ byteAt raw (raw.length - 4) ↔ ¬SumOk raw := Iff.rfl

theorem xor_bad_iff : xor8 (coveredBytes raw) ≠ byteAt raw (raw.length - 3) ↔ ¬XorOk raw := Iff.rfl

theorem codecDecode_badHeader (hn : SizeOk raw) (hs : ¬StartOk cfg expected raw) :
    codecDecode cfg raw expected cls = .error .badHeader := by
  rw [codecDecode, if_neg (not_malformed_iff.mpr hn), if_pos (start_bad_iff.mpr hs)]

theorem codecDecode_badTerminator (hn : SizeOk raw) (hs : StartOk cfg expected raw) (ht : ¬TermOk cfg raw) :
    codecDecode cfg raw expected cls = .error .badTerminator := by
  rw [codecDecode, if_neg (not_malformed_iff.mpr hn), if_neg (mt start_bad_iff.mp (not_not.mpr hs)),
    if_pos (term_bad_iff.mpr ht)]

/-- Past the first two checks the table decides. -/
theorem codecDecode_lookup (hn : SizeOk raw) (hs : StartOk cfg expected raw) (ht : TermOk cfg raw) :
    codecDecode cfg raw expected cls =
      (LenTable.lookup (tableOf cfg cls) (byteAt raw 3)).elim (.error .unknownCommand) fun lt =>
        if sum8 (coveredBytes raw) ≠ byteAt raw (raw.length - 4) then .error .checksumMismatch
        else if xor8 (coveredBytes raw) ≠ byteAt raw (raw.length - 3) then .error .xorMismatch
        else .message (decodedMessage cfg raw cls lt) := by
  rw [codecDecode, if_neg (not_malformed_iff.mpr hn), if_neg (mt start_bad_iff.mp (not_not.mpr hs)),
    if_neg (mt term_bad_iff.mp (not_not.mpr ht))]
  cases LenTable.lookup (tableOf cfg cls) (byteAt raw 3) <;> rfl

theorem codecDecode_unknownCommand (hn : SizeOk raw) (hs : StartOk cfg expected raw) (ht : TermOk cfg raw)
    (hl : LenTable.lookup (tableOf cfg cls) (byteAt raw 3) = none) :
    codecDecode cfg raw expected cls = .error .unknownCommand := by
  rw [codecDecode_lookup hn hs ht, hl, Option.elim_none]

variable {lt : Nat}

theorem codecDecode_checksumMismatch (hn : SizeOk raw) (hs : StartOk cfg expected raw) (ht : TermOk cfg raw)
    (hl : LenTable.lookup (tableOf cfg cls) (byteAt raw 3) = some lt) (hc : ¬SumOk raw) :
    codecDecode cfg raw expected cls = .error .checksumMismatch := by
  rw [codecDecode_lookup hn hs ht, hl, Option.elim_some, if_pos (sum_bad_iff.mpr hc)]

theorem codecDecode_xorMismatch (hn : SizeOk raw) (hs : StartOk cfg expected raw) (ht : TermOk cfg raw)
    (hl : LenTable.lookup (tableOf cfg cls) (byteAt raw 3) = some lt) (hc : SumOk raw) (hx : ¬XorOk raw) :
    codecDecode cfg raw expected cls = .error .xorMismatch := by
  rw [codecDecode_lookup hn hs ht, hl, Option.elim_some, if_neg (mt sum_bad_iff.mp (not_not.mpr hc)),
    if_pos (xor_bad_iff.mpr hx)]

theorem codecDecode_allOk (hn : SizeOk raw) (hs : StartOk cfg expected raw) (ht : TermOk cfg raw)
    (hl : LenTable.lookup (tableOf cfg cls) (byteAt raw 3) = some lt) (hc : SumOk raw) (hx : XorOk raw) :
    codecDecode cfg raw expected cls = .message (decodedMessage cfg raw cls lt) := by
  rw [codecDecode_lookup hn hs ht, hl, Option.elim_some, if_neg (mt sum_bad_iff.mp (not_not.mpr hc)),
    if_neg (mt xor_bad_iff.mp (not_not.mpr hx))]

/-- A Message warns exactly of a length byte that is not the table's length (R131). -/
theorem decodedMessage_warn (cfg : Cfg) (raw : List Byte) (cls : MsgClass) (lt : Nat) :
    (decodedMessage cfg raw cls lt).warn = decide (lt ≠ lenOf raw) := by
  rw [Bool.eq_iff_iff, decide_eq_true_iff]
  simp [decodedMessage, lenOf]

/-- A buffer DECODE answers with a Message has passed every check. -/
theorem checks_of_codecDecode_message {m : Message} (h : codecDecode cfg raw expected cls = .message m) :
    SizeOk raw ∧ StartOk cfg expected raw ∧ TermOk cfg raw ∧
      (∃ lt, LenTable.lookup (tableOf cfg cls) (byteAt raw 3) = some lt) ∧ SumOk raw ∧ XorOk raw := by
  obtain ⟨cmd, p, tr, lt, hp, rfl, hl, rfl, -⟩ := codecDecode_message h
  refine ⟨?_, ⟨rfl, rfl, rfl⟩, ⟨?_, ?_⟩, ⟨lt, hl⟩, ?_, ?_⟩
  · rw [SizeOk, lenOf, frameBytes_length, byteAt_frameBytes_4, BitVec.toNat_ofNat]
    omega
  · rw [frameBytes_length, byteAt_frameBytes_term0]
  · rw [frameBytes_length, byteAt_frameBytes_term1]
  · rw [SumOk, frameBytes_length, byteAt_frameBytes_chk, coveredBytes_frameBytes]
  · rw [XorOk, frameBytes_length, byteAt_frameBytes_xor, coveredBytes_frameBytes]

end Checks

/-! A change of one byte. -/

theorem byteAt_set_self {raw : List Byte} {i : Nat} (b : Byte) (h : i < raw.length) : byteAt (raw.set i b) i = b := by
  simp [byteAt, h]

theorem byteAt_set_ne {raw : List Byte} {i j : Nat} (b : Byte) (h : i ≠ j) : byteAt (raw.set i b) j = byteAt raw j := by
  simp [byteAt, List.getD_eq_getElem?_getD, List.getElem?_set_ne h]

/-- The covered bytes end before the checksum byte. -/
theorem coveredBytes_set_of_le {raw : List Byte} {i : Nat} (b : Byte) (hn : 5 ≤ raw.length) (h : raw.length - 4 ≤ i) :
    coveredBytes (raw.set i b) = coveredBytes raw := by
  rw [coveredBytes, coveredBytes, List.length_set, List.drop_set, if_neg (by omega), List.take_set_of_le (by omega)]

/-- A covered byte, with what stands before and after it. -/
theorem coveredBytes_set_of_lt {raw : List Byte} {i : Nat} (h1 : 1 ≤ i) (h : i < raw.length - 4) :
    ∃ l r, ∀ b, coveredBytes (raw.set i b) = l ++ b :: r := by
  have hk : i - 1 < (coveredBytes raw).length := by
    rw [coveredBytes, List.length_take, List.length_drop]
    omega
  refine ⟨(coveredBytes raw).take (i - 1), (coveredBytes raw).drop (i - 1 + 1), fun b => ?_⟩
  rw [coveredBytes, List.length_set, List.drop_set, if_neg (by omega), List.take_set, ← coveredBytes,
    List.set_eq_take_append_cons_drop, if_pos hk]

theorem set_byteAt {raw : List Byte} {i : Nat} (h : i < raw.length) : raw.set i (byteAt raw i) = raw := by
  simp [byteAt, h]

/-- R113 (a) on a buffer: a change of a covered byte or of the checksum byte is seen by the checksum. -/
theorem SumOk.not_set {raw : List Byte} {i : Nat} {b : Byte} (hc : SumOk raw) (hn : 9 ≤ raw.length) (h1 : 1 ≤ i)
    (hi : i ≤ raw.length - 4) (hb : b ≠ byteAt raw i) : ¬SumOk (raw.set i b) := by
  unfold SumOk at hc ⊢
  rw [List.length_set]
  rcases Nat.lt_or_eq_of_le hi with hlt | rfl
  · obtain ⟨l, r, hcov⟩ := coveredBytes_set_of_lt h1 hlt
    have hraw := hcov (byteAt raw i)
    rw [set_byteAt (by omega)] at hraw
    rw [byteAt_set_ne b (by omega), ← hc, hcov, hraw]
    exact mt (sum8_append_cons_inj l r).mp hb
  · rw [byteAt_set_self b (by omega), coveredBytes_set_of_le b (by omega) le_rfl, hc]
    exact hb.symm

/-- A change past the checksum byte leaves the checksum right. -/
theorem SumOk.set {raw : List Byte} {i : Nat} (hc : SumOk raw) (b : Byte) (hn : 9 ≤ raw.length)
    (hi : raw.length - 4 < i) : SumOk (raw.set i b) := by
  rw [SumOk, List.length_set, coveredBytes_set_of_le b (by omega) hi.le, byteAt_set_ne b (by omega)]
  exact hc

theorem XorOk.not_set_xor {raw : List Byte} {b : Byte} (hx : XorOk raw) (hn : 9 ≤ raw.length)
    (hb : b ≠ byteAt raw (raw.length - 3)) : ¬XorOk (raw.set (raw.length - 3) b) := by
  rw [XorOk, List.length_set, coveredBytes_set_of_le b (by omega) (by omega), byteAt_set_self b (by omega), hx]
  exact hb.symm

theorem SizeOk.set {raw : List Byte} {i : Nat} (hn : SizeOk raw) (b : Byte) (hi : i ≠ 4) : SizeOk (raw.set i b) := by
  rw [SizeOk, lenOf, List.length_set, byteAt_set_ne b hi]
  exact hn

theorem StartOk.set {cfg : Cfg} {expected : Byte} {raw : List Byte} {i : Nat} (hs : StartOk cfg expected raw) (b : Byte)
    (hi : 3 ≤ i) : StartOk cfg expected (raw.set i b) := by
  rw [StartOk, byteAt_set_ne b (by omega), byteAt_set_ne b (by omega), byteAt_set_ne b (by omega)]
  exact hs

/-- A change of any of the three bytes of the frame start is seen by the first check. -/
theorem StartOk.not_set {cfg : Cfg} {expected : Byte} {raw : List Byte} {i : Nat} {b : Byte}
    (hs : StartOk cfg expected raw) (hn : 9 ≤ raw.length) (hi : i = 0 ∨ i = 1 ∨ i = 2) (hb : b ≠ byteAt raw i) :
    ¬StartOk cfg expected (raw.set i b) := by
  obtain ⟨h0, h1, h2⟩ := hs
  rintro ⟨g0, g1, g2⟩
  rcases hi with rfl | rfl | rfl
  · rw [byteAt_set_self b (by omega)] at g0
    exact hb (g0.trans h0.symm)
  · rw [byteAt_set_self b (by omega)] at g1
    exact hb (g1.trans h1.symm)
  · rw [byteAt_set_self b (by omega)] at g2
    exact hb (g2.trans h2.symm)

theorem TermOk.set {cfg : Cfg} {raw : List Byte} {i : Nat} (ht : TermOk cfg raw) (b : Byte) (hn : 9 ≤ raw.length)
    (hi : i < raw.length - 2) : TermOk cfg (raw.set i b) := by
  rw [TermOk, List.length_set, byteAt_set_ne b (by omega), byteAt_set_ne b (by omega)]
  exact ht

theorem TermOk.not_set {cfg : Cfg} {raw : List Byte} {i : Nat} {b : Byte} (ht : TermOk cfg raw) (hn : 9 ≤ raw.length)
    (hi : i = raw.length - 2 ∨ i = raw.length - 1) (hb : b ≠ byteAt raw i) : ¬TermOk cfg (raw.set i b) := by
  obtain ⟨h0, h1⟩ := ht
  rw [TermOk, List.length_set]
  rintro ⟨g0, g1⟩
  rcases hi with rfl | rfl
  · rw [byteAt_set_self b (by omega)] at g0
    exact hb (g0.trans h0.symm)
  · rw [byteAt_set_self b (by omega)] at g1
    exact hb (g1.trans h1.symm)

/-! The statements. -/

/-- DECODE gives the frame of an ENCODE'd Message back as that Message (R133). -/
theorem codecDecode_encodedMessage {cfg : Cfg} {cls : MsgClass} {cmd addr : Byte} {pb : List Byte}
    (hp : pb.length ≤ 255) (hl : LenTable.lookup (tableOf cfg cls) cmd = some pb.length) :
    codecDecode cfg (encodedMessage cfg cls cmd addr pb).commandBytes addr cls =
      .message (encodedMessage cfg cls cmd addr pb) := by
  have h := codecDecode_frame (addr := addr) hp hl rfl
  rw [encodedMessage_commandBytes]
  refine h.trans ?_
  simp [encodedMessage, frameBytes]

/-- Settles O9: what ENCODE built is a frame with every field and check right, as long as the table says. -/
theorem decodeOfEncodeGivesTheMessageBack : Obligations.DecodeOfEncodeGivesTheMessageBack := by
  intro s u cls cmd addr payload m _ hu hcfg hwf henc
  obtain ⟨lt, pb, hl, -, rfl, rfl⟩ := codecEncode_cases (codecEncode_of_completes henc)
  have hlen : pb.length ≤ maxPay := LenTable.lookup_le hwf hl
  have hle : pb.length ≤ 255 := hlen.trans (by decide)
  have hdec := codecDecode_encodedMessage (addr := addr) hle hl
  rw [← hcfg] at hdec ⊢
  refine ⟨rfl, rfl, rfl, rfl, .idle, Config.freeErrInfo u.fresh, ?_⟩
  rw [decodeOp_message hu hdec]
  simp [encodedMessage]

/-- Settles O5: admissible operands have the bytes the codec makes of them. -/
theorem encodeBuildsTheFrame : Obligations.EncodeBuildsTheFrame := by
  rintro s cls cmd addr payload lt pb hb hl hp body rfl
  have hpb := encodePayloadBytes_of_standsFor hp
  have hdone := encodeOp_completes hb (codecEncode_ok hl hpb addr)
  simpa [encodedMessage, encodePayloadBytes_length hpb] using hdone

/-- Settles O6: ENCODE and SEND start with the codec's ENCODE, which refuses each of these operands. -/
theorem encodeRefusesIllFormedOperands : Obligations.EncodeRefusesIllFormedOperands := by
  intro s cls cmd addr hb i hi
  have refuses : ∀ p r, codecEncode s.cfg cls cmd addr p = .error r → exec (i p) s = .refused r := by
    intro p r h
    obtain rfl | ⟨rfl, rfl, ha, hid⟩ := hi
    · exact encodeOp_refused hb h
    · exact send_refused hb (by simp [configured, ha, hid]) h
  refine ⟨fun hl p => refuses p _ (codecEncode_unknown hl addr p), fun lt hl => ?_⟩
  have payloadRefused : ∀ p r, encodePayloadBytes s.cfg.endian lt p = .error r → exec (i p) s = .refused r :=
    fun p r h => refuses p r (codecEncode_refused hl h addr)
  refine ⟨fun h => payloadRefused _ _ ?_, fun h v => payloadRefused _ _ ?_, fun h b => payloadRefused _ _ ?_,
    fun h v hv => payloadRefused _ _ ?_, fun h b hlen => payloadRefused _ _ ?_⟩
  · simp only [encodePayloadBytes, if_neg h]
  · simp only [encodePayloadBytes, if_pos h]
  · simp only [encodePayloadBytes, if_pos h]
  · simp only [encodePayloadBytes, if_neg h, if_pos hv]
  · simp only [encodePayloadBytes, if_neg h, if_pos hlen]

/-- Settles O7: along the checks, in the order they are made. -/
theorem decodeChecksInOrderThenDelivers : Obligations.DecodeChecksInOrderThenDelivers := by
  rintro s cls expected raw n hb rfl - hn
  intro covered i
  split
  · rename_i hs
    exact decodeOp_endsInError hb (codecDecode_badHeader hn (start_bad_iff.mp hs)) fun _ => ⟨rfl, rfl, rfl, rfl, rfl⟩
  rename_i hs
  rw [start_bad_iff, not_not] at hs
  split
  · rename_i ht
    exact decodeOp_endsInError hb (codecDecode_badTerminator hn hs (term_bad_iff.mp ht)) fun _ => ⟨rfl, rfl, rfl, rfl⟩
  rename_i ht
  rw [term_bad_iff, not_not] at ht
  split
  · rename_i hl
    exact decodeOp_endsInError hb (codecDecode_unknownCommand hn hs ht hl) fun _ => ⟨rfl, rfl⟩
  rename_i lt hl
  intro recorded
  split
  · rename_i hc
    exact decodeOp_endsInError hb (codecDecode_checksumMismatch hn hs ht hl hc) fun _ => ⟨rfl, rfl, rfl, rfl, rfl, rfl⟩
  rename_i hc
  rw [not_not] at hc
  split
  · rename_i hx
    exact decodeOp_endsInError hb (codecDecode_xorMismatch hn hs ht hl hc hx) fun _ => ⟨rfl, rfl, rfl, rfl, rfl, rfl⟩
  · rename_i hx
    have hm := codecDecode_allOk hn hs ht hl hc (not_not.mp hx)
    rw [← decodedMessage_warn s.cfg raw cls lt]
    exact ⟨.idle, Config.freeErrInfo s.fresh, decodeOp_message hb hm⟩

/-- Settles O8: the codec's own refusal. -/
theorem decodeRefusesImpossibleBuffers : Obligations.DecodeRefusesImpossibleBuffers :=
  fun _ _ _ _ hb h => decodeOp_malformed hb (codecDecode_malformed.mpr h)

/-- Settles O10: the accepted frame passed every check; the changed byte fails its own check and leaves the earlier ones
as they were. -/
theorem tamperedFrameIsRejected : Obligations.TamperedFrameIsRejected := by
  rintro s u cls expected raw m i b - ⟨t, hexec, hres⟩ hu hcfg hb
  obtain ⟨hn, hs, ht, ⟨lt, hl⟩, hc, hx⟩ := checks_of_codecDecode_message (codecDecode_of_signalled hexec hres)
  rw [← hcfg] at hs ht hl ⊢
  have hlen : raw.length = 9 + lenOf raw := hn
  have h9 : 9 ≤ raw.length := by omega
  have rejects : ∀ {e}, codecDecode u.cfg (raw.set i b) expected cls = .error e →
      EndsInError (.decodeOp cls expected (raw.set i b)) u e fun _ => True :=
    fun h => decodeOp_endsInError hu h fun _ => trivial
  have hl' : i ≠ 3 → LenTable.lookup (tableOf u.cfg cls) (byteAt (raw.set i b) 3) = some lt :=
    fun hi => (byteAt_set_ne b hi).symm ▸ hl
  refine ⟨fun hi => ?_, fun hi => ?_, fun hi => ?_, fun hi => ?_, fun hi => ?_, fun hi => ?_⟩
  · exact rejects (codecDecode_checksumMismatch (hn.set b (by omega)) (hs.set b (by omega)) (ht.set b h9 (by omega))
      (hl' (by omega)) (hc.not_set h9 (by omega) (by omega) hb))
  · obtain rfl : i = raw.length - 3 := by omega
    exact rejects (codecDecode_xorMismatch (hn.set b (by omega)) (hs.set b (by omega)) (ht.set b h9 (by omega))
      (hl' (by omega)) (hc.set b h9 (by omega)) (hx.not_set_xor h9 hb))
  · exact rejects (codecDecode_badHeader (hn.set b (by omega)) (hs.not_set h9 hi hb))
  · exact rejects (codecDecode_badTerminator (hn.set b (by omega)) (hs.set b (by omega))
      (ht.not_set h9 (by omega) hb))
  · subst hi
    have hcmd : byteAt (raw.set 3 b) 3 = b := byteAt_set_self b (by omega)
    have hn' := hn.set b (show 3 ≠ 4 by decide)
    have hs' := hs.set b le_rfl
    have ht' := ht.set b h9 (show 3 < raw.length - 2 by omega)
    split_ifs with hlb
    · exact rejects (codecDecode_unknownCommand hn' hs' ht' (by rw [hcmd, hlb]))
    · obtain ⟨lt', hlt'⟩ := Option.ne_none_iff_exists'.mp hlb
      exact rejects (codecDecode_checksumMismatch hn' hs' ht' (by rw [hcmd, hlt'])
        (hc.not_set h9 (by omega) (by omega) hb))
  · subst hi
    have hbad : (raw.set 4 b).length ≠ 9 + (byteAt (raw.set 4 b) 4).toNat := by
      rw [List.length_set, byteAt_set_self b (by omega)]
      intro h
      refine hb (BitVec.eq_of_toNat_eq ?_)
      unfold lenOf at hlen
      omega
    exact decodeOp_malformed hu (codecDecode_malformed.mpr (.inr hbad))

end Sys2Proof.Machine
end

section
/-! SUPPORT. The receive engine, step by step: which byte it takes next, what one byte or event does in each phase, and how
the operations that use it start (42_synchronizer.md). -/

namespace Sys2Proof.Machine

open Sys2Proof.Claims

/-! The next byte. -/

theorem fetch_busy {s : State} (hb : s.busy = true) (ht : s.turns = []) : fetch s = fetchEngine s := by
  simp [fetch, hb, ht]

/-- While the engine asks for a byte, a step is what `next()` returns, executed (R150). -/
theorem step_rx {s : State} (hb : s.busy = true) (ht : s.turns = []) (hc : s.ctl = .rx) :
    step s = runFetch (fetchByte s) := by
  rw [step_eq_runFetch, fetch_busy hb ht, fetchEngine, hc]

theorem runFetch_fetchByte_replay {s : State} {b : Byte} {rest : List Byte} (hr : s.replay = b :: rest) :
    runFetch (fetchByte s) = exec (.rxByte b) { s with replay := rest } := by
  rw [fetchByte, hr]
  rfl

theorem runFetch_fetchByte_empty {s : State} (hr : s.replay = []) (hx : s.rx = []) :
    runFetch (fetchByte s) = .next s := by
  rw [fetchByte, hr, hx]
  rfl

theorem runFetch_fetchByte_event {s : State} {w : RxWord} {rest : List RxWord} (hr : s.replay = [])
    (hx : s.rx = w :: rest) :
    runFetch (fetchByte s) = exec (rxInstr w) { s with rx := rest, consumed := s.consumed + 1 } := by
  rw [fetchByte, hr, hx]
  exact runFetch_fetchWord_ok (decode_rxWord s.cfg w)

/-- The kind of an RX event is its two upper bits, its data the eight lower ones (R41). -/
theorem rxInstr_append (kind : BitVec 2) (data : Byte) :
    rxInstr (kind ++ data) =
      if kind = 0#2 then .rxByte data else if kind = 1#2 then .rxOverrun data
      else if kind = 2#2 then .rxFatal data else .rxTimeout data := by
  have hd := data.isLt
  have hw : (kind ++ data).toNat = kind.toNat * 256 + data.toNat := by
    rw [BitVec.toNat_append, ← Nat.shiftLeft_add_eq_or_of_lt hd, Nat.shiftLeft_eq]
  have hkind : (kind ++ data).toNat / 256 = kind.toNat := by omega
  have hdata : BitVec.ofNat 8 ((kind ++ data).toNat % 256) = data := by
    apply BitVec.eq_of_toNat_eq
    rw [BitVec.toNat_ofNat]
    omega
  unfold rxInstr
  rw [hkind, hdata]
  match kind with
  | 0#2 => rfl
  | 1#2 => rfl
  | 2#2 => rfl
  | 3#2 => rfl

/-- Settles O33: the three cases of `next()`, and the kinds of an event. -/
theorem nextByteComesFromReplayFirst : Obligations.NextByteComesFromReplayFirst := by
  intro s hb ht hc
  rw [step_rx hb ht hc]
  refine ⟨fun b rest hr => runFetch_fetchByte_replay hr, fun hr => ⟨runFetch_fetchByte_empty hr, ?_⟩⟩
  intro kind data rest hx s'
  rw [runFetch_fetchByte_event hr hx, rxInstr_append]
  split_ifs <;> rfl

/-! One byte, by phase. -/

theorem phaseOf_hunt_iff {buf : List Byte} : phaseOf buf = .hunt ↔ buf = [] := by
  unfold phaseOf
  split_ifs <;> simp_all

theorem phaseOf_body {buf : List Byte} (h : 5 ≤ buf.length) : phaseOf buf = .body := by
  rw [phaseOf, if_neg (by omega), if_neg (by omega), if_neg (by omega)]

theorem phaseOf_cmdLen {buf : List Byte} (h : buf.length = 3 ∨ buf.length = 4) : phaseOf buf = .cmdLen := by
  rw [phaseOf, if_neg (by omega), if_neg (by omega), if_pos (by omega)]

section

variable {s : State} (hc : s.ctl = .rx)
include hc

theorem engineActive_of_rx : engineActive s = true := by simp [engineActive, hc]

/-- In HUNT the header starts a frame (R151). -/
theorem execRxByte_hunt (hbuf : s.buf = []) (b : Byte) :
    execRxByte b s = .next (if b = s.cfg.header then { s with buf := [b] } else s) := by
  rw [execRxByte, if_pos (engineActive_of_rx hc), phaseOf_hunt_iff.mpr hbuf]
  exact (apply_ite Host.Outcome.next ..).symm

/-- The first look-ahead byte is collected (R152). -/
theorem execRxByte_first {h : Byte} (hbuf : s.buf = [h]) (b : Byte) :
    execRxByte b s = .next { s with buf := [h, b] } := by
  simp [execRxByte, engineActive_of_rx hc, hbuf, phaseOf, rxAddr]

/-- The second look-ahead byte decides (R152, R153). -/
theorem execRxByte_second {h z : Byte} (hbuf : s.buf = [h, z]) (b : Byte) :
    execRxByte b s =
      .next (if z = 0x00#8 ∧ b = s.cfg.addr then { s with buf := [h, z, b] }
        else { s with buf := [], replay := [z, b] }) := by
  rw [apply_ite Host.Outcome.next]
  simp [execRxByte, engineActive_of_rx hc, hbuf, phaseOf, rxAddr, byteAt]

/-- Identifier and length are collected (R154). -/
theorem execRxByte_cmdLen (hbuf : s.buf.length = 3 ∨ s.buf.length = 4) (b : Byte) :
    execRxByte b s = .next { s with buf := s.buf ++ [b] } := by
  rw [execRxByte, if_pos (engineActive_of_rx hc), phaseOf_cmdLen hbuf]
  rfl

theorem execRxByte_body (hbuf : 5 ≤ s.buf.length) (b : Byte) :
    execRxByte b s =
      if (s.buf ++ [b]).length = 9 + lenOf (s.buf ++ [b]) then receiveFrame (s.buf ++ [b]) s
      else .next { s with buf := s.buf ++ [b] } := by
  rw [execRxByte, if_pos (engineActive_of_rx hc), phaseOf_body hbuf]
  rfl

/-- The last byte of a frame hands it to DECODE (R155). -/
theorem execRxByte_complete (hbuf : 5 ≤ s.buf.length) {b : Byte}
    (hn : (s.buf ++ [b]).length = 9 + lenOf (s.buf ++ [b])) :
    execRxByte b s = receiveFrame (s.buf ++ [b]) s := by
  rw [execRxByte_body hc hbuf, if_pos hn]

/-- Past the frame start every byte but the last is collected unexamined (R154, R155). -/
theorem execRxByte_collect (hbuf : 3 ≤ s.buf.length) {b : Byte}
    (hn : (s.buf ++ [b]).length ≠ 9 + lenOf (s.buf ++ [b])) :
    execRxByte b s = .next { s with buf := s.buf ++ [b] } := by
  by_cases h5 : 5 ≤ s.buf.length
  · rw [execRxByte_body hc h5, if_neg hn]
  · exact execRxByte_cmdLen hc (by omega) b

end

/-- Settles O11: the phase HUNT. -/
theorem huntKeepsTheHeaderOnly : Obligations.HuntKeepsTheHeaderOnly :=
  fun _ b hc hbuf => execRxByte_hunt hc hbuf b

/-- Settles O12: the phases ADDR and CMDLEN, by the length of the buffer. -/
theorem frameStartMatchesOrIsReplayed : Obligations.FrameStartMatchesOrIsReplayed :=
  fun _ b hc => ⟨fun _ hbuf => execRxByte_first hc hbuf b, fun _ _ hbuf => execRxByte_second hc hbuf b,
    fun hbuf => execRxByte_cmdLen hc hbuf b⟩

/-! A complete frame. -/

theorem receiveFrame_message {raw : List Byte} {s : State} {m : Message}
    (h : codecDecode s.cfg raw s.cfg.addr .ret = .message m) :
    receiveFrame raw s = .next { s with buf := [], lenWarn := s.lenWarn || m.warn, ctl := .dispatch m } := by
  simp [receiveFrame, h]

/-- A FrameError ends the operation with what R260 records laid over the free `ERRINFO`. -/
theorem receiveFrame_error {raw : List Byte} {s : State} {e : ErrCode}
    (h : codecDecode s.cfg raw s.cfg.addr .ret = .error e) :
    receiveFrame raw s =
      .next (ends { s with buf := [] } e (frameErrInfo e raw (Config.freeErrInfo s.fresh)) .nothing) := by
  rw [receiveFrame, h]
  exact congrArg Host.Outcome.next (State.raise_of_not_transport _ e _ (codecDecode_error_not_transport h).1)

/-- What `frameErrInfo` lays over a free record is what R260 asks of it. -/
theorem frameRecord_frameErrInfo {cfg : Cfg} {raw : List Byte} {addr : Byte} {cls : MsgClass} {e : ErrCode}
    (h : codecDecode cfg raw addr cls = .error e) (free : ErrInfo) : FrameRecord e raw (frameErrInfo e raw free) := by
  obtain rfl | rfl | rfl | rfl | rfl := codecDecode_error h
  · exact ⟨rfl, rfl, rfl, rfl, rfl⟩
  · exact ⟨rfl, rfl, rfl, rfl⟩
  · exact ⟨rfl, rfl⟩
  · exact ⟨rfl, rfl, rfl, rfl, rfl, rfl⟩
  · exact ⟨rfl, rfl, rfl, rfl, rfl, rfl⟩

/-- Settles O13: the phase BODY, then the answers of the codec, which gives every buffer of that size a meaning. -/
theorem bodyIsCollectedThenDecoded : Obligations.BodyIsCollectedThenDecoded := by
  rintro s b raw hc hbuf rfl
  refine ⟨fun hn => execRxByte_collect hc (by omega) hn, fun hn => ⟨fun m hm => ?_, fun e he => ?_, fun hmal => ?_⟩⟩
  · exact (execRxByte_complete hc hbuf hn).trans (receiveFrame_message hm)
  · exact ⟨_, frameRecord_frameErrInfo he _, (execRxByte_complete hc hbuf hn).trans (receiveFrame_error he)⟩
  · exact not_malformed_iff.mpr hn (codecDecode_malformed.mp hmal)

/-- Each row R84 can choose for a received frame hands that frame to DECODE. -/
theorem exec_of_frameInstr_ret {s : State} {addr cmd : Byte} {p : List Byte} {tr : Trailer} {i : Instr}
    (h : frameInstr s.cfg .ret addr cmd p tr = .ok i) :
    exec i s = receiveFrameWord (frameBytes s.cfg.header addr cmd p tr) s := by
  unfold frameInstr at h
  dsimp only at h
  split at h
  next hseed =>
    obtain ⟨rfl, -⟩ := hseed
    cases h
    rfl
  next =>
    split at h
    next hamp =>
      obtain ⟨rfl, -⟩ := hamp
      cases h
      rfl
    next =>
      cases h
      rfl

/-- Settles O14: the word and the completing byte both hand the buffer to DECODE. -/
theorem completingByteExecutesTheFrameWord : Obligations.CompletingByteExecutesTheFrameWord := by
  rintro s b raw i hc hrun hbuf rfl hi
  have hsize := (decodeFrameWord_shape hi).1
  obtain ⟨addr, cmd, p, tr, -, hraw, hrow⟩ := decodeFrameWord_ok hi
  calc
    exec (.rxByte b) s = receiveFrame (s.buf ++ [b]) s := execRxByte_complete hc hbuf hsize
    _ = receiveFrameWord (s.buf ++ [b]) s := by rw [receiveFrameWord, if_neg hrun]
    _ = exec i s := by rw [exec_of_frameInstr_ret hrow, ← hraw]

/-! The other events. -/

/-- A transport error drops what is held and ends the operation (R158, R273). -/
theorem State.raise_transport (s : State) {e : ErrCode} (h : isTransport e = true) (g : ErrInfo → ErrInfo) :
    s.raise e g = ends { s with buf := [], replay := [] } e (g (Config.freeErrInfo s.fresh)) .nothing := by
  rw [State.raise, if_pos h]
  rfl

theorem execRxOverrun_retried {s : State} (hc : s.ctl = .rx) (h : s.cfg.overrunScope = .all ∨ s.buf = []) (x : Byte) :
    execRxOverrun x s = .next s := by
  rw [execRxOverrun, if_pos (engineActive_of_rx hc), if_pos (h.imp_right phaseOf_hunt_iff.mpr)]

theorem execRxOverrun_fatal {s : State} (hc : s.ctl = .rx) (hscope : s.cfg.overrunScope = .huntOnly)
    (hbuf : s.buf ≠ []) (x : Byte) : execRxOverrun x s = .next (s.raise .transportOverrun id) := by
  rw [execRxOverrun, if_pos (engineActive_of_rx hc), if_neg (by simp [hscope, phaseOf_hunt_iff, hbuf])]

theorem execRxFatal_raises {s : State} (hc : s.ctl = .rx) (x : Byte) :
    execRxFatal x s = .next (s.raise .transportFatal id) := by simp [execRxFatal, engineActive_of_rx hc]

theorem execRxTimeout_raises {s : State} (hc : s.ctl = .rx) (x : Byte) :
    execRxTimeout x s = .next (s.raise .transportTimeout id) := by simp [execRxTimeout, engineActive_of_rx hc]

/-- Settles O16: by scope and phase. -/
theorem overrunIsRetriedOrFatal : Obligations.OverrunIsRetriedOrFatal := by
  refine fun s x hc => ⟨fun h => execRxOverrun_retried hc h x, fun hscope hbuf => ?_⟩
  exact ⟨_, (execRxOverrun_fatal hc hscope hbuf x).trans (congrArg _ (s.raise_transport rfl id))⟩

/-- Settles O17: both raise a transport error. -/
theorem fatalAndTimeoutEndTheOperation : Obligations.FatalAndTimeoutEndTheOperation :=
  fun s x hc => ⟨⟨_, (execRxFatal_raises hc x).trans (congrArg _ (s.raise_transport rfl id))⟩,
    _, (execRxTimeout_raises hc x).trans (congrArg _ (s.raise_transport rfl id))⟩

/-! Starting the engine. -/

theorem startEngine_configured {s : State} (hb : s.busy = false) (hc : configured s = true) (k : State → StepResult) :
    startEngine s k = k s := by simp [startEngine, hb, hc]

theorem execRecv_starts {s : State} (hb : s.busy = false) (hc : configured s = true) :
    execRecv s = .next (s.begin .idle .recv .rx) := startEngine_configured hb hc _

theorem execDrain_starts {s : State} (hb : s.busy = false) (hc : configured s = true) :
    execDrain s = .next (s.begin .idle .drain .avail) := startEngine_configured hb hc _

theorem execAwait_starts {s : State} (hb : s.busy = false) (hc : configured s = true) (id : Byte) :
    execAwait id s = .next (({ s with awaitId := id } : State).begin .waiting .await .rx) :=
  startEngine_configured hb hc _

/-- SEND holds the frame ENCODE builds of its operands (R188). -/
theorem execSend_starts {s : State} (hb : s.busy = false) (hc : configured s = true) {cmd addr : Byte} {p : Payload}
    {m : Message} (hm : codecEncode s.cfg .command cmd addr p = .ok m) :
    execSend cmd addr p s = .next (s.begin .idle (.send m.commandBytes) .avail) := by
  rw [execSend, startEngine_configured hb hc, hm]

/-- Settles O18: a configured idle machine starts each of the four; SEND's frame is ENCODE's. -/
theorem engineOperationsStart : Obligations.EngineOperationsStart := by
  intro s hb ha hid
  have hc : configured s = true := by simp [configured, ha, hid]
  refine ⟨execRecv_starts hb hc, execDrain_starts hb hc, execAwait_starts hb hc, ?_⟩
  rintro cmd addr payload lt pb hl hp body rfl
  have hpb := encodePayloadBytes_of_standsFor hp
  refine (execSend_starts hb hc (codecEncode_ok (cls := .command) hl hpb addr)).trans ?_
  simp [State.begin, encodedMessage, encodePayloadBytes_length hpb]

end Sys2Proof.Machine
end

section
/-! SUPPORT. The invariant: every step keeps it (42_synchronizer.md rules R161, R165). One lemma per way a step changes
what the invariant speaks of, then the cases of a step. -/

namespace Sys2Proof.Machine

open Sys2Proof.Claims Sys2Proof.Laws

/-! What the invariant says of an idle machine and of one that asks for a byte. -/

theorem Inv.run_of_idle {s : State} (h : Inv s) (hb : s.busy = false) : s.run = .none := by
  by_contra hr
  simp [h.busyRun.mpr hr] at hb

theorem Inv.held_of_idle {s : State} (h : Inv s) (hb : s.busy = false) : s.buf = [] ∧ s.replay = [] :=
  h.heldOnlyByEngine (by simp [h.ctlIdle.mpr (h.run_of_idle hb)])

theorem Inv.run_of_ctl {s : State} (h : Inv s) {c : Ctl} (hc : s.ctl = c) (hne : c ≠ .idle) : s.run ≠ .none :=
  fun hr => hne (hc.symm.trans (h.ctlIdle.mpr hr))

/-! Sequencing. -/

/-- The running operation `r` can wait for `c`. -/
def CtlFits (r : Run) : Ctl → Prop
  | .idle => r = .none
  | .rx => r ≠ .none
  | .avail => r = .drain ∨ ∃ f, r = .send f
  | .frame _ => False
  | .dispatch m => r ≠ .none ∧ ReceivedMessage m
  | .tx => ∃ f, r = .send f

theorem CtlFits.idle_iff {r : Run} {c : Ctl} (h : CtlFits r c) : c = .idle ↔ r = .none := by
  cases c with
  | idle => exact iff_of_true rfl h
  | rx => exact iff_of_false nofun h
  | frame => exact h.elim
  | dispatch => exact iff_of_false nofun h.1
  | avail =>
    obtain rfl | ⟨f, rfl⟩ := h
    · exact iff_of_false nofun nofun
    · exact iff_of_false nofun nofun
  | tx =>
    obtain ⟨f, rfl⟩ := h
    exact iff_of_false nofun nofun

/-- An operation starts, goes on or ends where nothing is held (R161). -/
theorem Inv.resequence {s : State} (h : Inv s) (hheld : s.buf = [] ∧ s.replay = []) {b : Bool} {w : WState} {r : Run}
    {c : Ctl} (hbusy : b = true ↔ r ≠ .none) (hfits : CtlFits r c) (hwait : r = .await → w = .waiting)
    (hsend : ∀ f, r = .send f → ∃ addr cmd p tr, f = frameBytes s.cfg.header addr cmd p tr ∧ p.length ≤ maxPay)
    (hconf : r ≠ .none → configured s = true) :
    Inv { s with busy := b, wstate := w, run := r, ctl := c } :=
  { h with
    busyRun := hbusy
    ctlIdle := hfits.idle_iff
    heldOnlyByEngine := fun _ => hheld
    noFrameHeld := by
      rintro raw rfl
      exact hfits
    dispatchMessage := by
      rintro m rfl
      exact hfits.2
    availRun := by
      rintro rfl
      exact hfits
    txRun := by
      rintro rfl
      exact hfits
    awaitWaiting := hwait
    sendFrame := hsend
    configuredRun := hconf }

theorem Inv.withCtl {s : State} (h : Inv s) (hheld : s.buf = [] ∧ s.replay = []) {c : Ctl} (hfits : CtlFits s.run c) :
    Inv { s with ctl := c } :=
  h.resequence hheld h.busyRun hfits h.awaitWaiting h.sendFrame h.configuredRun

/-- The end of an operation, whatever `WSTATE` is. -/
theorem Inv.finish {s : State} (h : Inv s) (hheld : s.buf = [] ∧ s.replay = []) (w : WState) (e : ErrCode)
    (g : ErrInfo → ErrInfo) (r : Result) : Inv (({ s with wstate := w } : State).finish e g r) :=
  { h.resequence hheld (b := false) (w := w) (r := .none) (c := .idle) (by simp) rfl nofun nofun (by simp) with }

/-- What the engine holds may be dropped at any time. -/
theorem Inv.clearBuf {s : State} (h : Inv s) : Inv { s with buf := [] } :=
  { h with
    heldOnlyByEngine := fun hc => ⟨rfl, (h.heldOnlyByEngine hc).2⟩
    replayBound := h.replayBound.imp_right (Nat.le_trans (Nat.add_le_add_right (Nat.zero_le _) _))
    bufHeader := nofun
    bufStart := nofun
    bufShort := nofun }

theorem Inv.clearEngine {s : State} (h : Inv s) : Inv s.clearEngine :=
  { h.clearBuf with
    heldOnlyByEngine := fun _ => ⟨rfl, rfl⟩
    replayBound := .inl rfl }

/-- An error ends the operation with nothing held: a transport error drops it, and the others come where nothing is. -/
theorem Inv.raise {s : State} (h : Inv s) {e : ErrCode} (hheld : isTransport e = true ∨ s.buf = [] ∧ s.replay = [])
    (w : WState) (g : ErrInfo → ErrInfo) : Inv (({ s with wstate := w } : State).raise e g) := by
  rw [State.raise]
  split
  next => exact h.clearEngine.finish ⟨rfl, rfl⟩ w e g .nothing
  next ht => exact h.finish (hheld.resolve_left ht) w e g .nothing

/-! DISPATCH. -/

theorem Inv.deliver {s : State} (h : Inv s) {m : Message} (hm : ReceivedMessage m) : Inv (s.deliver m) :=
  { h with lastMsgReceived := fun _ => hm }

theorem Inv.storeSlot {s : State} (h : Inv s) {sel : SlotSel} {p : List Byte}
    (hp : p.length = (s.slot sel).raw.length) : Inv (s.storeSlot sel p) := by
  cases sel with
  | amp => exact { h with slotAmpSize := hp.trans h.slotAmpSize }
  | seed => exact { h with slotSeedSize := hp.trans h.slotSeedSize }

theorem Inv.frameDone {s t : State} (h : Inv s) (hheld : s.buf = [] ∧ s.replay = []) {m : Message}
    (hm : ReceivedMessage m) (hx : frameDone m s = .next t) : Inv t := by
  have hd := h.deliver hm
  obtain ⟨-, rfl⟩ | ⟨hr, rfl⟩ | ⟨-, -, rfl⟩ | ⟨hr, -, rfl⟩ := frameDone_next hx
  · exact hd.finish hheld s.wstate _ _ _
  · exact hd.withCtl hheld hr
  · exact hd.finish hheld .matched _ _ _
  · exact hd.withCtl hheld (show s.run ≠ .none by simp [hr])

theorem Inv.dispatchTo {s t : State} (h : Inv s) (hheld : s.buf = [] ∧ s.replay = []) {m : Message}
    (hm : ReceivedMessage m) {sel : SlotSel} {want : Nat} (hwant : (s.slot sel).raw.length = want)
    (hx : dispatchTo sel want m s = .next t) : Inv t := by
  obtain ⟨-, ⟨-, rfl⟩ | ⟨p, -, -, rfl⟩ | ⟨p, -, hp, hx⟩⟩ := dispatchTo_next hx
  · exact h.raise (.inr hheld) s.wstate _
  · exact h.raise (.inr hheld) s.wstate _
  · exact (h.storeSlot (hp.trans hwant.symm)).frameDone (by simpa using hheld) hm hx

/-- The DISPATCH of the Message that waits for it, whichever row it takes (R180). -/
theorem Inv.dispatch {s t : State} (h : Inv s) {m : Message} (hc : s.ctl = .dispatch m)
    (hx : exec (dispatchInstr s.cfg m) s = .next t) : Inv t := by
  have hheld := h.heldOnlyByEngine (by simp [hc])
  have hm := h.dispatchMessage m hc
  unfold dispatchInstr at hx
  split at hx
  · exact h.dispatchTo hheld hm (sel := .amp) h.slotAmpSize hx
  · split at hx
    · exact h.dispatchTo hheld hm (sel := .seed) h.slotSeedSize hx
    · exact h.frameDone hheld hm (execDispatchNone_next hx)

/-! The receive path. -/

/-- A table in canonical form lets no Message have more than `MAXPAY` payload bytes. -/
theorem receivedMessage_of_codecDecode {cfg : Cfg} {raw : List Byte} {addr : Byte} {m : Message}
    (hwf : LenTable.wf cfg.retLen = true) (h : codecDecode cfg raw addr .ret = .message m) : ReceivedMessage m := by
  obtain ⟨cmd, p, tr, lt, -, -, hl, -, rfl⟩ := codecDecode_message h
  have hlt : lt ≤ maxPay := LenTable.lookup_le hwf hl
  refine ⟨rfl, fun q hq => ?_⟩
  simp only at hq
  split at hq
  · cases hq
  · cases hq
    rw [List.length_take]
    omega

theorem Inv.receiveFrame {s t : State} (h : Inv s) (hreplay : s.replay = []) (hrun : s.run ≠ .none) {raw : List Byte}
    (hx : receiveFrame raw s = .next t) : Inv t := by
  obtain ⟨e, -, rfl⟩ | ⟨m, hm, rfl⟩ := receiveFrame_next hx
  · exact h.clearBuf.raise (.inr ⟨rfl, hreplay⟩) s.wstate _
  · have hctl : Inv { s with buf := [], ctl := .dispatch m } :=
      h.clearBuf.withCtl ⟨rfl, hreplay⟩ ⟨hrun, receivedMessage_of_codecDecode h.retLenWf hm⟩
    exact { hctl with }

/-- Before a byte goes into `BUF` there is room for it: `REPLAY` is empty or the byte was the first of it (R165). -/
def Room (s : State) : Prop := s.replay = [] ∨ s.buf.length + s.replay.length ≤ 1

theorem Room.replay_nil {s : State} (h : Room s) (hbuf : 2 ≤ s.buf.length) : s.replay = [] := by
  obtain hr | hr := h
  · exact hr
  · omega

/-- Past the look-ahead a byte that does not complete the frame is collected. -/
theorem Inv.collect {s : State} (h : Inv s) (hc : s.ctl = .rx) (hroom : Room s) (hbuf : 3 ≤ s.buf.length) {b : Byte}
    (hshort : 5 ≤ s.buf.length → s.buf.length + 1 ≠ 9 + (byteAt s.buf 4).toNat) : Inv { s with buf := s.buf ++ [b] } := by
  have hat : ∀ {i}, i < s.buf.length → byteAt (s.buf ++ [b]) i = byteAt s.buf i := byteAt_append_left [b]
  obtain ⟨h1, h2⟩ := h.bufStart hbuf
  exact
    { h with
      heldOnlyByEngine := fun hn => absurd hc hn
      replayBound := .inl (hroom.replay_nil (by omega))
      bufHeader := fun _ => (hat (by omega)).trans (h.bufHeader (by omega))
      bufStart := fun _ => ⟨(hat (by omega)).trans h1, (hat (by omega)).trans h2⟩
      bufShort := fun hlen => by
        simp only [List.length_append, List.length_singleton] at hlen ⊢
        by_cases h5 : 5 ≤ s.buf.length
        · have hle := h.bufShort h5
          have hne := hshort h5
          rw [hat (by omega)]
          omega
        · omega }

/-- One received byte, by phase. -/
theorem Inv.rxByte {s t : State} (h : Inv s) (hroom : Room s) {b : Byte} (hx : execRxByte b s = .next t) : Inv t := by
  obtain ⟨hc, hcases⟩ := execRxByte_next hx
  obtain ⟨hbuf, rfl⟩ | ⟨h0, hbuf, rfl⟩ | ⟨h0, z, hbuf, rfl⟩ | ⟨hbuf, rfl⟩ | ⟨hbuf, hne, rfl⟩ | ⟨hbuf, -, hx⟩ := hcases
  · split
    next hb =>
      exact
        { h with
          heldOnlyByEngine := fun hn => absurd hc hn
          replayBound := hroom.imp_right fun hle => by simp only [List.length_singleton]; omega
          bufHeader := fun _ => hb
          bufStart := nofun
          bufShort := nofun }
    next => exact h
  · have hhd : h0 = s.cfg.header := by simpa [hbuf, byteAt] using h.bufHeader
    exact
      { h with
        heldOnlyByEngine := fun hn => absurd hc hn
        replayBound := hroom.imp_right fun hle => by simp only [hbuf, List.length_cons] at hle ⊢; omega
        bufHeader := fun _ => hhd
        bufStart := nofun
        bufShort := nofun }
  · have hhd : h0 = s.cfg.header := by simpa [hbuf, byteAt] using h.bufHeader
    split
    next hstart =>
      exact
        { h with
          heldOnlyByEngine := fun hn => absurd hc hn
          replayBound := .inl (hroom.replay_nil (by simp [hbuf]))
          bufHeader := fun _ => hhd
          bufStart := fun _ => hstart
          bufShort := nofun }
    next =>
      exact
        { h.clearBuf with
          heldOnlyByEngine := fun hn => absurd hc hn
          replayBound := .inr (by simp) }
  · exact h.collect hc hroom (by omega) fun h5 => by omega
  · exact h.collect hc hroom (by omega) fun _ => hne
  · exact h.receiveFrame (hroom.replay_nil (by omega)) (h.run_of_ctl hc (by simp)) hx

/-- Taking a held-back byte makes room for it. -/
theorem Inv.takeReplay {s : State} (h : Inv s) (hc : s.ctl = .rx) {b : Byte} {rest : List Byte}
    (hr : s.replay = b :: rest) : Inv { s with replay := rest } ∧ Room { s with replay := rest } := by
  have hle : s.buf.length + rest.length ≤ 1 := by
    have hbound := h.replayBound
    simp only [hr, reduceCtorEq, false_or, List.length_cons] at hbound
    omega
  exact ⟨{ h with heldOnlyByEngine := fun hn => absurd hc hn, replayBound := .inr (Nat.le_succ_of_le hle) }, .inr hle⟩

/-- One RX event, by kind. -/
theorem Inv.rxInstr {s t : State} (h : Inv s) (hreplay : s.replay = []) {w : RxWord}
    (hx : exec (rxInstr w) s = .next t) : Inv t := by
  obtain ⟨b, hw⟩ | ⟨b, hw⟩ | ⟨b, hw⟩ | ⟨b, hw⟩ := rxInstr_cases w
  all_goals rw [hw] at hx
  · exact h.rxByte (.inl hreplay) hx
  · obtain ⟨-, rfl | ⟨-, -, rfl⟩⟩ := execRxOverrun_next (x := b) hx
    · exact h
    · exact h.raise (.inl rfl) s.wstate _
  · obtain ⟨-, rfl⟩ := execRxFatal_next (x := b) hx
    exact h.raise (.inl rfl) s.wstate _
  · obtain ⟨-, rfl⟩ := execRxTimeout_next (x := b) hx
    exact h.raise (.inl rfl) s.wstate _

/-! `AVAIL` and `TX`. -/

theorem Inv.availAnswer {s t : State} (h : Inv s) (hc : s.ctl = .avail) {n : Nat} (hx : availAnswer n s = .next t) :
    Inv t := by
  have hheld := h.heldOnlyByEngine (by simp [hc])
  obtain ⟨-, rfl⟩ | ⟨-, -, rfl⟩ | ⟨-, hr, rfl⟩ := availAnswer_next hx
  · exact h.withCtl hheld (h.run_of_ctl hc (by simp))
  · exact h.finish hheld s.wstate _ _ _
  · exact h.withCtl hheld hr

/-- A transmitted frame's word is FRAME.CMD, which waits for the transport or ends SEND. -/
theorem Inv.txWrite {s t : State} (h : Inv s) {f : List Byte} {i : Instr}
    (hi : decode s.cfg ⟨.frame .command, f⟩ = .ok i) (hx : exec i s = .next t) : Inv t := by
  obtain ⟨addr, cmd, p, tr, -, -, hrow⟩ := decodeFrameWord_ok hi
  obtain rfl : i = .frameCmd addr cmd p tr := by
    unfold frameInstr at hrow
    dsimp only at hrow
    split at hrow
    · cases hrow
      rfl
    · cases hrow
  obtain ⟨hc, ⟨-, rfl⟩ | ⟨rest, -, rfl⟩ | ⟨rest, -, rfl⟩⟩ := execFrameCmd_next hx
  · exact h
  · exact { h.finish (h.heldOnlyByEngine (by simp [hc])) s.wstate .none id .nothing with }
  · exact Inv.raise (s := { s with txAns := rest }) { h with } (.inl rfl) s.wstate id

/-! The host. -/

/-- A host operation that ends at once, or starts the engine. -/
theorem Inv.opStep {i : Instr} {s t : State} (h : Inv s) (hb : s.busy = false) (hx : OpStep i s t) : Inv t := by
  have hheld := h.held_of_idle hb
  cases hx with
  | done r lw hlw => exact { h.finish hheld .idle .none id r with }
  | error e g => exact h.raise (.inr hheld) .idle g
  | recv hconf => exact h.resequence hheld (by simp) (nofun : Run.recv ≠ .none) nofun nofun fun _ => hconf
  | drain hconf => exact h.resequence hheld (by simp) (.inl rfl) nofun nofun fun _ => hconf
  | await id _ hconf =>
    exact { h.resequence hheld (b := true) (w := .waiting) (r := .await) (c := .rx) (by simp) (by simp [CtlFits])
      (fun _ => rfl) nofun fun _ => hconf with }
  | send m cmd addr p hconf hm =>
    obtain ⟨lt, pb, hl, -, rfl, rfl⟩ := codecEncode_cases hm
    refine h.resequence hheld (by simp) (.inr ⟨_, rfl⟩) nofun ?_ fun _ => hconf
    rintro f ⟨⟩
    exact ⟨addr, cmd, pb, _, encodedMessage_commandBytes .., LenTable.lookup_le h.cmdLenWf hl⟩

/-- Reset leaves what the invariant speaks of at its reset values. -/
theorem inv_applyReset (s : State) : Inv (applyReset s) :=
  { invariantHoldsAtReset with }

theorem Inv.cfgWrite {s : State} (h : Inv s) (hb : s.busy = false) {w : CfgWrite} {c : Cfg}
    (hw : applyCfgWrite s.cfg w = some c) : Inv { s with cfg := c } := by
  obtain ⟨hbuf, -⟩ := h.held_of_idle hb
  have hrun := h.run_of_idle hb
  obtain ⟨hret, hcmd⟩ := applyCfgWrite_wf hw h.retLenWf h.cmdLenWf
  exact
    { h with
      bufHeader := fun hlen => by simp [hbuf] at hlen
      bufStart := fun hlen => by simp [hbuf] at hlen
      sendFrame := fun f hf => by simp [hrun] at hf
      configuredRun := fun hr => absurd hrun hr
      retLenWf := hret
      cmdLenWf := hcmd }

theorem Inv.hostPort {s t : State} (h : Inv s) {a : PortAct} (hx : hostPort a s = .next t) : Inv t := by
  cases a with
  | cfgWrite w =>
    obtain ⟨hb, c, hw, rfl⟩ := hostCfgWrite_next hx
    exact h.cfgWrite hb hw
  | writeLenWarn b =>
    cases hx
    exact { h with }
  | read r =>
    obtain ⟨n, a, rfl⟩ := hostRead_next hx
    exact { h with }
  | reset =>
    cases hx
    exact inv_applyReset s

/-! The step. -/

/-- A move of one agent. Taking a turn, a transaction, an event or an answer off its queue changes nothing the invariant
speaks of. -/
theorem Takes.inv {s t : State} {o : StepResult} (hx : Takes s o) (h : Inv s) (ho : o = .next t) : Inv t := by
  cases hx with
  | waits =>
    cases ho
    exact h
  | op w rest i _ hi =>
    obtain ⟨hb, hstep⟩ := exec_op_next (decodeOpWord_chan hi) ho
    exact Inv.opStep (s := { s with host := rest }) { h with } hb hstep
  | field sel rest i _ _ hi =>
    obtain ⟨-, rfl⟩ := decode_field hi
    obtain ⟨r, rfl⟩ := exec_field_next (fieldInstr_chan _ _) ho
    exact { h with }
  | port a rest => exact Inv.hostPort (s := { s with host := rest }) { h with } ho
  | replay b rest hc hr =>
    obtain ⟨htaken, hroom⟩ := h.takeReplay hc hr
    exact htaken.rxByte hroom ho
  | event w rest _ hr =>
    exact Inv.rxInstr (s := { s with rx := rest, consumed := s.consumed + 1 }) { h with } hr ho
  | avail n rest hc => exact Inv.availAnswer (s := { s with avail := rest }) { h with } hc ho
  | frame raw _ hc => exact absurd hc (h.noFrameHeld raw)
  | dispatch m hc => exact h.dispatch hc ho
  | tx f i _ _ _ hi => exact h.txWrite hi ho
  | reject => cases ho
  | stop => cases ho

/-- Settles O30: a step is one move, after the turn is taken. -/
theorem stepKeepsInvariant : Obligations.StepKeepsInvariant := by
  intro s t h hx
  obtain ⟨turns, htakes⟩ := step_takes s
  exact htakes.inv { h with } hx

/-- Settles O31: the invariant of the next state says so. -/
theorem nothingHeldWhileIdle : Obligations.NothingHeldWhileIdle := by
  intro s t h hx
  have ht := stepKeepsInvariant s t h hx
  refine ⟨ht.held_of_idle, ?_, fun hlen => ht.replayBound.resolve_right (by omega)⟩
  obtain hr | hle := ht.replayBound
  · simp [hr]
  · omega

end Sys2Proof.Machine
end

section
/-! SUPPORT. The hunt: garbage without a start pattern, then a frame (42_synchronizer.md rule R162). The engine looks at the
stream position by position; its state is told by the bytes it still has to take, held-back ones first. -/

namespace Sys2Proof.Machine

open Sys2Proof.Claims

/-! Runs. -/

/-- Some number of steps from `s` ends in `r`. -/
def Arrives (s : State) (r : StepResult) : Prop := ∃ k, steps k s = r

theorem Arrives.of_next {s t : State} (h : step s = .next t) : Arrives s (.next t) :=
  ⟨1, by simp [steps, h]⟩

theorem Arrives.of_step {s t : State} {r : StepResult} (h : step s = .next t) (ht : Arrives t r) : Arrives s r := by
  obtain ⟨k, hk⟩ := ht
  exact ⟨k + 1, by simp [steps, h, hk]⟩

/-! The bytes still to be taken. -/

theorem rxInstr_setWidth (b : Byte) : rxInstr (b.setWidth 10) = .rxByte b := by
  have hw : b.setWidth 10 = 0#2 ++ b := BitVec.setWidth_eq_append (by decide)
  rw [hw, rxInstr_append, if_pos rfl]

/-- `s` is `e` but for what the engine holds and the events before those of `e`: `bytes` are to be taken until `e`'s
transport is left, those in `REPLAY` first. -/
structure Feeding (e s : State) (bytes : List Byte) : Prop where
  same : { s with buf := [], replay := [], rx := e.rx, consumed := e.consumed } = e
  feed : ∃ rest, bytes = s.replay ++ rest ∧ s.rx = byteEvents rest ++ e.rx ∧ s.consumed + rest.length = e.consumed
  bound : s.replay = [] ∨ s.buf.length + s.replay.length ≤ 2

section

variable {e s : State} {bytes : List Byte}

theorem Feeding.cfg (h : Feeding e s bytes) : s.cfg = e.cfg := (congrArg State.cfg h.same :)

theorem Feeding.ctl (h : Feeding e s bytes) (he : Hunting e) : s.ctl = .rx := by
  obtain ⟨-, hc, -⟩ := he
  exact (congrArg State.ctl h.same).trans hc

theorem Feeding.step_eq (h : Feeding e s bytes) (he : Hunting e) : step s = runFetch (fetchByte s) := by
  obtain ⟨hb, hc, -, -, ht⟩ := he
  exact step_rx ((congrArg State.busy h.same).trans hb) ((congrArg State.turns h.same).trans ht)
    ((congrArg State.ctl h.same).trans hc)

/-- With nothing left to take, `s` is `e` but for the frame in assembly. -/
theorem Feeding.eq_of_nil (h : Feeding e s []) : { s with buf := [] } = e := by
  obtain ⟨rest, hbytes, hrx, hcons⟩ := h.feed
  obtain ⟨hreplay, rfl⟩ := List.append_eq_nil_iff.mp hbytes.symm
  have hrx : s.rx = e.rx := hrx
  have hcons : s.consumed = e.consumed := hcons
  have hsame := h.same
  rw [← hrx, ← hcons] at hsame
  rw [← hsame, hreplay]

/-- A step takes the first of the bytes, wherever it is, and makes room for it. -/
theorem Feeding.next {b : Byte} (h : Feeding e s (b :: bytes)) (he : Hunting e) :
    ∃ t, Feeding e t bytes ∧ Room t ∧ t.buf = s.buf ∧ step s = execRxByte b t := by
  rw [h.step_eq he]
  obtain ⟨rest, hbytes, hrx, hcons⟩ := h.feed
  have hbound := h.bound
  cases hr : s.replay with rw [hr] at hbytes hbound
  | cons c replay =>
    obtain ⟨rfl, rfl⟩ := List.cons.inj hbytes
    have hle : s.buf.length + replay.length ≤ 1 := by
      simp only [reduceCtorEq, false_or, List.length_cons] at hbound
      omega
    refine ⟨{ s with replay := replay }, ⟨h.same, ⟨rest, rfl, hrx, hcons⟩, .inr (Nat.le_succ_of_le hle)⟩, .inr hle,
      rfl, ?_⟩
    exact runFetch_fetchByte_replay hr
  | nil =>
    obtain rfl : b :: bytes = rest := hbytes
    refine ⟨{ s with rx := byteEvents bytes ++ e.rx, consumed := s.consumed + 1 },
      ⟨h.same, ⟨bytes, by rw [hr]; rfl, rfl, ?_⟩, .inl hr⟩, .inl hr, rfl, ?_⟩
    · simp only [List.length_cons] at hcons ⊢
      omega
    · rw [runFetch_fetchByte_event hr hrx, rxInstr_setWidth]
      rfl

/-- A byte taken goes into `BUF`. -/
theorem Feeding.collect (h : Feeding e s bytes) (hroom : Room s) {buf : List Byte}
    (hlen : buf.length = s.buf.length + 1) : Feeding e { s with buf := buf } bytes :=
  ⟨h.same, h.feed, hroom.imp_right fun hle => by simp only [hlen]; omega⟩

/-- A false start: its two look-ahead bytes are to be taken again. -/
theorem Feeding.replay (h : Feeding e s bytes) (hreplay : s.replay = []) (z b : Byte) :
    Feeding e { s with buf := [], replay := [z, b] } (z :: b :: bytes) := by
  obtain ⟨rest, rfl, hrx, hcons⟩ := h.feed
  exact ⟨h.same, ⟨rest, by rw [hreplay]; rfl, hrx, hcons⟩, .inr le_rfl⟩

/-! From a frame start to DISPATCH. -/

/-- Where the engine arrives: everything taken, and the Message waits. -/
def dispatching (e : State) (m : Message) : State := { e with lenWarn := e.lenWarn || m.warn, ctl := .dispatch m }

/-- The byte that completes a frame hands its Message to DISPATCH. -/
theorem Feeding.complete (h : Feeding e s []) (he : Hunting e) {f : List Byte} {m : Message}
    (hm : codecDecode e.cfg f e.cfg.addr .ret = .message m) {b : Byte} (hf : s.buf ++ [b] = f) :
    execRxByte b s = .next (dispatching e m) := by
  subst hf
  obtain ⟨hsize, -⟩ := checks_of_codecDecode_message hm
  have hlen : (s.buf ++ [b]).length = 9 + lenOf (s.buf ++ [b]) := hsize
  have h5 : 5 ≤ s.buf.length := by
    rw [List.length_append, List.length_singleton] at hlen
    omega
  rw [← h.cfg] at hm
  rw [execRxByte_complete (h.ctl he) h5 hlen, receiveFrame_message hm]
  exact congrArg (fun u => Host.Outcome.next (dispatching u m)) h.eq_of_nil

/-- Past the frame start the rest of an accepted frame is collected, and the last byte completes it. -/
theorem Feeding.assemble (h : Feeding e s bytes) (he : Hunting e) {f : List Byte} {m : Message}
    (hm : codecDecode e.cfg f e.cfg.addr .ret = .message m) (hbuf : 3 ≤ s.buf.length) (hf : s.buf ++ bytes = f)
    (hne : bytes ≠ []) : Arrives s (.next (dispatching e m)) := by
  induction bytes generalizing s with
  | nil => exact absurd rfl hne
  | cons b bytes ih =>
    obtain ⟨t, ht, hroom, htbuf, hstep⟩ := h.next he
    rw [← htbuf] at hbuf hf
    by_cases hlast : bytes = []
    · subst hlast
      exact .of_next (hstep.trans (ht.complete he hm hf))
    · have hf' : (t.buf ++ [b]) ++ bytes = f := by rw [List.append_assoc]; exact hf
      have hshort : (t.buf ++ [b]).length ≠ 9 + lenOf (t.buf ++ [b]) := by
        obtain ⟨hsize, -⟩ := checks_of_codecDecode_message hm
        have hpos := List.length_pos_iff.mpr hlast
        intro hn
        have hsame : lenOf f = lenOf (t.buf ++ [b]) := by
          rw [← hf', lenOf, lenOf, byteAt_append_left bytes (by omega)]
        rw [SizeOk, hsame, ← hn, ← hf', List.length_append] at hsize
        omega
      refine .of_step (hstep.trans (execRxByte_collect (ht.ctl he) hbuf hshort)) (ih (ht.collect hroom ?_) ?_ hf' hlast)
      · simp
      · simp only [List.length_append]
        omega

/-- A header byte in HUNT and the two bytes after it: a frame start, or a false one whose two bytes come again (R152,
R153). -/
theorem Feeding.lookAhead {z b : Byte} {r : StepResult} (h : Feeding e s (e.cfg.header :: z :: b :: bytes))
    (he : Hunting e) (hbuf : s.buf = [])
    (hstart : z = 0x00#8 ∧ b = e.cfg.addr →
      ∀ t, Feeding e t bytes → t.buf = [e.cfg.header, z, b] → Arrives t r)
    (hfalse : ¬(z = 0x00#8 ∧ b = e.cfg.addr) →
      ∀ t, Feeding e t (z :: b :: bytes) → t.buf = [] → Arrives t r) :
    Arrives s r := by
  obtain ⟨s₁, h₁, hroom₁, hbuf₁, hstep₁⟩ := h.next he
  rw [execRxByte_hunt (h₁.ctl he) (hbuf₁.trans hbuf), if_pos (by rw [h₁.cfg])] at hstep₁
  refine .of_step hstep₁ ?_
  have h₁ := h₁.collect hroom₁ (buf := [e.cfg.header]) (by simp [hbuf₁, hbuf])
  obtain ⟨s₂, h₂, hroom₂, hbuf₂, hstep₂⟩ := h₁.next he
  rw [execRxByte_first (h₂.ctl he) hbuf₂] at hstep₂
  refine .of_step hstep₂ ?_
  have h₂ := h₂.collect hroom₂ (buf := [e.cfg.header, z]) (by simp [hbuf₂])
  obtain ⟨s₃, h₃, hroom₃, hbuf₃, hstep₃⟩ := h₂.next he
  rw [execRxByte_second (h₃.ctl he) hbuf₃] at hstep₃
  refine .of_step hstep₃ ?_
  split
  next hs =>
    rw [h₃.cfg] at hs
    exact hstart hs _ (h₃.collect hroom₃ (buf := [e.cfg.header, z, b]) (by simp [hbuf₃])) rfl
  next hs =>
    rw [h₃.cfg] at hs
    exact hfalse hs _ (h₃.replay (hroom₃.replay_nil (by simp [hbuf₃])) z b) rfl

/-- The pattern of a frame start stands at position `p` (R162). -/
def StartsAt (cfg : Cfg) (l : List Byte) (p : Nat) : Prop :=
  byteAt l p = cfg.header ∧ byteAt l (p + 1) = 0x00#8 ∧ byteAt l (p + 2) = cfg.addr

/-- A frame DECODE accepts begins with the pattern, and does not end with it. -/
theorem exists_start_of_codecDecode {cfg : Cfg} {f : List Byte} {addr : Byte} {cls : MsgClass} {m : Message}
    (hm : codecDecode cfg f addr cls = .message m) :
    ∃ l, f = cfg.header :: 0x00#8 :: addr :: l ∧ l ≠ [] := by
  obtain ⟨cmd, p, tr, -, -, rfl, -⟩ := codecDecode_message hm
  exact ⟨cmd :: BitVec.ofNat 8 p.length :: (p ++ [tr.chk, tr.xor, tr.term0, tr.term1]), rfl, by simp⟩

/-- In HUNT, garbage is dropped byte by byte until the frame's own header is the next byte. -/
theorem Feeding.hunt {g f : List Byte} {m : Message} (h : Feeding e s (g ++ f)) (he : Hunting e) (hbuf : s.buf = [])
    (hm : codecDecode e.cfg f e.cfg.addr .ret = .message m)
    (hg : ∀ p, p < g.length → ¬StartsAt e.cfg (g ++ f) p) : Arrives s (.next (dispatching e m)) := by
  obtain ⟨l, hf, hl⟩ := exists_start_of_codecDecode hm
  induction g generalizing s with
  | nil =>
    rw [List.nil_append, hf] at h
    exact h.lookAhead he hbuf (fun _ t ht htbuf => ht.assemble he hm (by simp [htbuf]) (by rw [htbuf, hf]; rfl) hl)
      fun hs => absurd ⟨rfl, rfl⟩ hs
  | cons c g ih =>
    have hg' : ∀ p, p < g.length → ¬StartsAt e.cfg (g ++ f) p := fun p hp => hg (p + 1) (Nat.succ_lt_succ hp)
    by_cases hc : c = e.cfg.header
    · have hnot := hg 0 (Nat.succ_pos _)
      match hzb : g ++ f with
      | z :: b :: rest =>
        rw [List.cons_append, hzb] at h hnot
        subst hc
        exact h.lookAhead he hbuf (fun hs => absurd ⟨rfl, hs⟩ hnot) fun _ t ht htbuf => ih (hzb ▸ ht) htbuf hg'
      | [] | [_] =>
        have hlen := congrArg List.length hzb
        simp only [hf, List.length_append, List.length_cons, List.length_nil] at hlen
        omega
    · obtain ⟨t, ht, -, htbuf, hstep⟩ := h.next he
      have htbuf := htbuf.trans hbuf
      rw [execRxByte_hunt (ht.ctl he) htbuf, ht.cfg, if_neg hc] at hstep
      exact .of_step hstep (ih ht htbuf hg')

end

/-- Settles O40: the hunt over the whole stream, from the state whose bytes are all still to be taken. -/
theorem garbageThenFrameSynchronises : Obligations.GarbageThenFrameSynchronises := by
  intro s g f m after hs hrx hm hg
  obtain ⟨hb, hc, hbuf, hreplay, ht⟩ := hs
  have he : Hunting { s with rx := after, consumed := s.consumed + (g ++ f).length } := ⟨hb, hc, hbuf, hreplay, ht⟩
  refine Feeding.hunt ⟨?_, ⟨g ++ f, by rw [hreplay]; rfl, hrx, rfl⟩, .inl hreplay⟩ he hbuf hm hg
  simp [hbuf, hreplay]

end Sys2Proof.Machine
end

section
/-! SUPPORT. DISPATCH, and the boundary of a frame at which DRAIN and SEND ask `AVAIL` and SEND writes (43_dispatch.md). -/

namespace Sys2Proof.Machine

open Sys2Proof.Claims

/-- An error that is no transport error ends the operation and drops nothing that is held (R273). -/
theorem State.raise_eq_ends (s : State) {e : ErrCode} (h : isTransport e = false) (g : ErrInfo → ErrInfo) :
    s.raise e g = ends s e (g (Config.freeErrInfo s.fresh)) .nothing := s.raise_of_not_transport e g h

/-! What follows a dispatched frame. -/

/-- A running operation, whichever it is, takes the frame as R192 says. -/
theorem frameDone_afterFrame {s : State} (hrun : s.run ≠ .none) (m : Message) :
    ∃ t, frameDone m s = .next t ∧ AfterFrame m s t := by
  cases hr : s.run with
  | none => exact absurd hr hrun
  | recv =>
    simp only [frameDone, AfterFrame, hr]
    exact ⟨_, rfl, _, rfl⟩
  | drain | send f =>
    simp only [frameDone, AfterFrame, hr]
    exact ⟨_, rfl, by simp [State.deliver, hr]⟩
  | await =>
    simp only [frameDone, AfterFrame, hr]
    by_cases hid : m.command = s.awaitId
    · simp only [if_pos hid]
      exact ⟨_, rfl, _, rfl⟩
    · simp only [if_neg hid]
      exact ⟨_, rfl, by simp [State.deliver, hr]⟩

/-! DISPATCH to a slot. -/

section

variable {s : State} (hrun : s.run ≠ .none) {m : Message} (sel : SlotSel)
include hrun

/-- A payload of the slot's length replaces the slot (R181). -/
theorem dispatchTo_stores {p : List Byte} (hp : m.payload = some p) :
    dispatchTo sel p.length m s = frameDone m (s.storeSlot sel p) := by simp [dispatchTo, hrun, hp]

theorem dispatchTo_missing (hp : m.payload = none) (want : Nat) :
    dispatchTo sel want m s = .next (s.raise .payloadMissing (commandErrInfo m.command)) := by
  simp [dispatchTo, hrun, hp]

theorem dispatchTo_wrongLength {p : List Byte} (hp : m.payload = some p) {want : Nat} (hl : p.length ≠ want) :
    dispatchTo sel want m s = .next (s.raise .wrongLength (lengthErrInfo p.length)) := by
  simp [dispatchTo, hrun, hp, hl]

end

/-- Settles O21: the slot is stored, and the operation still runs. -/
theorem dispatchReplacesTheSlot : Obligations.DispatchReplacesTheSlot := by
  intro s m p hrun hp
  have hgo : ∀ sel, ∃ t, dispatchTo sel p.length m s = .next t ∧ AfterFrame m (s.storeSlot sel p) t := by
    intro sel
    rw [dispatchTo_stores hrun sel hp]
    exact frameDone_afterFrame (by simpa using hrun) m
  constructor
  · intro hl
    rw [hl] at hgo
    exact hgo .seed
  · intro hl
    rw [hl] at hgo
    exact hgo .amp

/-- Settles O22: no slot is between the Message and the running operation. -/
theorem unregisteredFramePassesThrough : Obligations.UnregisteredFramePassesThrough := by
  intro s m hrun
  have hexec : exec (.dispatchNone m) s = frameDone m s := if_neg hrun
  rw [hexec]
  exact frameDone_afterFrame hrun m

/-- Settles O23: neither error is a transport error, and each lays its one part over the free `ERRINFO`. -/
theorem dispatchErrorsLeaveTheSlots : Obligations.DispatchErrorsLeaveTheSlots := by
  intro s m hrun
  constructor
  · intro i hp hi
    refine ⟨commandErrInfo m.command (Config.freeErrInfo s.fresh), rfl, ?_⟩
    rw [← s.raise_eq_ends rfl]
    obtain rfl | rfl := hi
    · exact dispatchTo_missing hrun .seed hp _
    · exact dispatchTo_missing hrun .amp hp _
  · intro p i hp hi
    refine ⟨lengthErrInfo p.length (Config.freeErrInfo s.fresh), rfl, ?_⟩
    rw [← s.raise_eq_ends rfl]
    obtain ⟨hl, rfl⟩ | ⟨hl, rfl⟩ := hi
    · exact dispatchTo_wrongLength hrun .seed hp hl
    · exact dispatchTo_wrongLength hrun .amp hp hl

/-! A slot after DISPATCH, as a function of the slot before. -/

theorem State.raise_slot (s : State) (e : ErrCode) (g : ErrInfo → ErrInfo) (x : SlotSel) :
    (s.raise e g).slot x = s.slot x := by cases x <;> simp

theorem State.storeSlot_slot (s : State) (sel : SlotSel) (p : List Byte) (x : SlotSel) :
    (s.storeSlot sel p).slot x = if x = sel then ⟨true, p⟩ else s.slot x := by cases x <;> cases sel <;> rfl

theorem frameDone_slot {m : Message} {s t : State} (h : frameDone m s = .next t) (x : SlotSel) :
    t.slot x = s.slot x := by
  have hheld := (frameDone_keeps h).2
  cases x with
  | amp => exact congrArg Held.slotAmp hheld
  | seed => exact congrArg Held.slotSeed hheld

/-- What DISPATCH of `m` makes of a slot that wants `want` bytes: nothing of the old one remains, or all of it. -/
def slotAfter (want : Nat) (m : Message) (old : Slot) : Slot :=
  match m.payload with
  | none => old
  | some p => if p.length = want then ⟨true, p⟩ else old

theorem slotAfter_idem (want : Nat) (m : Message) (old : Slot) :
    slotAfter want m (slotAfter want m old) = slotAfter want m old := by
  cases hp : m.payload with
  | none => simp [slotAfter, hp]
  | some p =>
    simp only [slotAfter, hp]
    split_ifs <;> rfl

theorem dispatchTo_slot {sel : SlotSel} {want : Nat} {m : Message} {s t : State} (h : dispatchTo sel want m s = .next t)
    (x : SlotSel) : t.slot x = if x = sel then slotAfter want m (s.slot x) else s.slot x := by
  obtain ⟨-, ⟨hp, rfl⟩ | ⟨p, hp, hl, rfl⟩ | ⟨p, hp, hl, h⟩⟩ := dispatchTo_next h
  · simp [State.raise_slot, slotAfter, hp]
  · simp [State.raise_slot, slotAfter, hp, hl]
  · simp [frameDone_slot h, State.storeSlot_slot, slotAfter, hp, hl]

/-- DISPATCH of `m` to a slot finds nothing to change in slots that another DISPATCH of `m` has left. -/
theorem dispatchTo_twice_slot {sel : SlotSel} {want : Nat} {m : Message} {s t u v : State}
    (ht : dispatchTo sel want m s = .next t) (hu : ∀ x, u.slot x = t.slot x) (hv : dispatchTo sel want m u = .next v)
    (x : SlotSel) : v.slot x = t.slot x := by
  rw [dispatchTo_slot hv, hu, dispatchTo_slot ht]
  split
  · exact slotAfter_idem want m _
  · rfl

/-- Settles O24: row by row; it holds after an error too, since the same frame raises the same error again. -/
theorem dispatchIsIdempotent : Obligations.DispatchIsIdempotent := by
  intro s t u v m i hi ht _ hamp hseed hv
  have hu : ∀ x, u.slot x = t.slot x
    | .amp => hamp
    | .seed => hseed
  have hslot : ∀ x, v.slot x = t.slot x := by
    obtain rfl | rfl | rfl := hi
    · exact dispatchTo_twice_slot (sel := .seed) ht hu hv
    · exact dispatchTo_twice_slot (sel := .amp) ht hu hv
    · exact fun x => (frameDone_slot (execDispatchNone_next hv) x).trans (hu x)
  exact ⟨hslot .amp, hslot .seed⟩

/-! The engine's steps that take no byte. -/

section

variable {s : State} (hb : s.busy = true) (ht : s.turns = [])
include hb ht

theorem step_busy : step s = runFetch (fetchEngine s) := by rw [step_eq_runFetch, fetch_busy hb ht]

theorem step_dispatch {m : Message} (hc : s.ctl = .dispatch m) : step s = exec (dispatchInstr s.cfg m) s := by
  rw [step_busy hb ht, fetchEngine, hc]
  exact runFetch_fetchWord_ok (decode_dispatchKey s.cfg m)

theorem step_avail (hc : s.ctl = .avail) {n : Nat} {rest : List Nat} (ha : s.avail = n :: rest) :
    step s = availAnswer n { s with avail := rest } := by
  rw [step_busy hb ht, fetchEngine, hc, ha]
  rfl

theorem step_tx (hc : s.ctl = .tx) {f : List Byte} (hrun : s.run = .send f) (ha : s.txAns ≠ []) {i : Instr}
    (hi : decode s.cfg ⟨.frame .command, f⟩ = .ok i) : step s = exec i s := by
  rw [step_busy hb ht, fetchEngine, hc]
  simp only [fetchTx, hrun, if_neg ha]
  exact runFetch_fetchWord_ok hi

end

/-- Settles O25: the step decodes the DISPATCH key, and the decoder compares in this order. -/
theorem commandByteChoosesTheDispatchRow : Obligations.CommandByteChoosesTheDispatchRow := by
  intro s m hb ht hc
  rw [step_dispatch hb ht hc, dispatchInstr, seedStatusId]
  split_ifs <;> rfl

theorem availAnswer_more {n : Nat} (hn : 0 < n) (s : State) : availAnswer n s = .next { s with ctl := .rx } :=
  if_pos hn

theorem availAnswer_drain {s : State} (hrun : s.run = .drain) : availAnswer 0 s = .next (s.complete .nothing) := by
  simp [availAnswer, hrun]

theorem availAnswer_send {s : State} {f : List Byte} (hrun : s.run = .send f) :
    availAnswer 0 s = .next { s with ctl := .tx } := by simp [availAnswer, hrun]

/-- Settles O26: the step takes the answer, which is positive or 0. -/
theorem availAnswerContinuesOrEndsTheDrain : Obligations.AvailAnswerContinuesOrEndsTheDrain := by
  intro s n rest hb ht hc ha
  rw [step_avail hb ht hc ha]
  refine ⟨fun hn => availAnswer_more hn _, ?_, ?_⟩
  · rintro rfl hrun
    exact ⟨_, availAnswer_drain (s := { s with avail := rest }) hrun⟩
  · rintro rfl f hrun
    exact availAnswer_send (s := { s with avail := rest }) hrun

/-! SEND's write. -/

section

variable {s : State} (hc : s.ctl = .tx) {rest : List Bool} (addr cmd : Byte) (p : List Byte) (tr : Trailer)
include hc

theorem execFrameCmd_written (ha : s.txAns = true :: rest) :
    execFrameCmd addr cmd p tr s =
      .next (({ s with txAns := rest, tx := s.tx ++ [frameBytes s.cfg.header addr cmd p tr] } : State).complete .nothing)
    := by simp [execFrameCmd, hc, ha]

theorem execFrameCmd_failed (ha : s.txAns = false :: rest) :
    execFrameCmd addr cmd p tr s = .next (({ s with txAns := rest } : State).raise .transportFatal id) := by
  simp [execFrameCmd, hc, ha]

end

/-- Settles O27: the held frame is the word of FRAME.CMD, and the transport's answer ends it. -/
theorem sendWritesOneWholeFrame : Obligations.SendWritesOneWholeFrame := by
  rintro s addr cmd p tr f ok rest rfl hp hb ht hc hrun ha
  have hrow : decode s.cfg ⟨.frame .command, frameBytes s.cfg.header addr cmd p tr⟩ = .ok (.frameCmd addr cmd p tr) :=
    Laws.RoundTrip.frameCmd addr cmd p tr s.cfg (decide_eq_true hp)
  refine ⟨step_tx hb ht hc hrun (by simp [ha]) hrow, ?_, ?_⟩
  · rintro rfl
    exact ⟨_, execFrameCmd_written hc addr cmd p tr ha⟩
  · rintro rfl
    exact ⟨_, (execFrameCmd_failed hc addr cmd p tr ha).trans
      (congrArg Host.Outcome.next (State.raise_transport { s with txAns := rest } rfl id))⟩

end Sys2Proof.Machine
end

section
/-! SUPPORT. The values of status fields: what a field reads in a payload under a layout, and the amplifier's flags and
numbers under the layout of R201 (44_status_amp.md). -/

namespace Sys2Proof.Machine

open Sys2Proof.Claims

/-! A field's elements in the payload. -/

/-- The bytes of a window, one by one. -/
theorem take_drop_eq_map_byteAt {p : List Byte} {o n : Nat} (h : o + n ≤ p.length) :
    (p.drop o).take n = (List.range n).map fun k => byteAt p (o + k) := by
  refine List.ext_getElem (by simp; omega) fun k hk _ => ?_
  have hlt : o + k < p.length := by simp at hk; omega
  simp [byteAt, hlt]

theorem memRead_eq_assemble (e : Endian) {p : List Byte} {o n : Nat} (h : o + n ≤ p.length) :
    memRead e p o n = assemble e ((List.range n).map fun k => byteAt p (o + k)) :=
  congrArg (assemble e) (take_drop_eq_map_byteAt h)

theorem memRead_byte (e : Endian) {p : List Byte} {o : Nat} (h : o + 1 ≤ p.length) :
    memRead e p o 1 = (byteAt p o).toNat := by
  rw [memRead_eq_assemble e h]
  cases e <;> simp [assemble, assembleBig, assembleLittle]

theorem memRead_word16 (e : Endian) {p : List Byte} {o : Nat} (h : o + 2 ≤ p.length) :
    memRead e p o 2 = word16At e p o := by
  rw [memRead_eq_assemble e h]
  cases e with
  | big => simp [List.range_succ, assemble, assembleBig, word16At, word16, Nat.mul_comm]
  | little => simp [List.range_succ, assemble, assembleLittle, word16At, word16]

/-- An element read in the field's container is the one read in the payload (R88). -/
theorem memRead_fieldSlice (e : Endian) (f : FieldSpec) (p : List Byte) {i : Nat} (hi : i < f.count) :
    memRead e (fieldSlice f p) (f.width * i) f.width = memRead e p (f.offset + f.width * i) f.width := by
  have hfit : f.width ≤ f.width * f.count - f.width * i := by
    rw [← Nat.mul_sub]
    exact Nat.le_mul_of_pos_right _ (by omega)
  rw [memRead, memRead, fieldSlice, List.drop_take, List.drop_drop, List.take_take, min_eq_left hfit]

theorem fieldValues_fieldSlice (e : Endian) (f : FieldSpec) (p : List Byte) :
    fieldValues e f (fieldSlice f p) =
      (List.range f.count).map fun i => memRead e p (f.offset + f.width * i) f.width :=
  List.map_congr_left fun _ hi => memRead_fieldSlice e f p (List.mem_range.mp hi)

/-- Every element of a field that fits the payload lies inside it (R64). -/
theorem FieldSpec.element_le {n : Nat} {f : FieldSpec} (hf : FieldSpec.fits n f = true) {i : Nat} (hi : i < f.count) :
    f.offset + f.width * i + f.width ≤ n := by
  have hfit : f.offset + f.width * f.count ≤ n := of_decide_eq_true hf
  have hnext : f.width * (i + 1) ≤ f.width * f.count := Nat.mul_le_mul_left _ hi
  rw [Nat.mul_succ] at hnext
  omega

section

variable (e : Endian) {n : Nat} {f : FieldSpec} (hf : FieldSpec.fits n f = true) {p : List Byte} (hp : p.length = n)
include hf hp

theorem fieldValues_byte (hw : f.width = 1) :
    fieldValues e f (fieldSlice f p) = (List.range f.count).map fun i => (byteAt p (f.offset + i)).toNat := by
  rw [fieldValues_fieldSlice]
  refine List.map_congr_left fun i hi => ?_
  have hle := FieldSpec.element_le hf (List.mem_range.mp hi)
  rw [hw, Nat.one_mul] at hle ⊢
  exact memRead_byte e (hle.trans hp.ge)

theorem fieldValues_word16 (hw : f.width = 2) :
    fieldValues e f (fieldSlice f p) = (List.range f.count).map fun i => word16At e p (f.offset + 2 * i) := by
  rw [fieldValues_fieldSlice]
  refine List.map_congr_left fun i hi => ?_
  have hle := FieldSpec.element_le hf (List.mem_range.mp hi)
  rw [hw] at hle ⊢
  exact memRead_word16 e (hle.trans hp.ge)

end

theorem FieldSpec.fitsOne_iff {n : Nat} {f : FieldSpec} :
    FieldSpec.fitsOne n f = true ↔ FieldSpec.fits n f = true ∧ f.count = 1 := by simp [FieldSpec.fitsOne]

/-- The value of a field with one element is its element. -/
theorem fieldValues_eq_singleton (e : Endian) {f : FieldSpec} (hc : f.count = 1) (c : List Byte) :
    fieldValues e f c = [fieldValue e f c] := by simp [fieldValues, fieldValue, hc]

section

variable (e : Endian) {n : Nat} {f : FieldSpec} (hf : FieldSpec.fitsOne n f = true) {p : List Byte} (hp : p.length = n)
include hf hp

theorem fieldValue_byte (hw : f.width = 1) : fieldValue e f (fieldSlice f p) = (byteAt p f.offset).toNat := by
  obtain ⟨hfit, hc⟩ := FieldSpec.fitsOne_iff.mp hf
  simpa [fieldValues_eq_singleton e hc, hc] using fieldValues_byte e hfit hp hw

theorem fieldValue_word16 (hw : f.width = 2) : fieldValue e f (fieldSlice f p) = word16At e p f.offset := by
  obtain ⟨hfit, hc⟩ := FieldSpec.fitsOne_iff.mp hf
  simpa [fieldValues_eq_singleton e hc, hc] using fieldValues_word16 e hfit hp hw

end

/-! The end of an extractor. -/

/-- An extractor on a payload of its status' length answers the value of its field. -/
theorem extractorOf_completes (sel : FieldSel) {s : State} (hb : s.busy = false) {p : List Byte}
    (hp : p.length = payLenOf sel) {r : Result} (hr : fieldResult s.cfg (fieldContainer s.cfg p sel) sel = r) :
    Completes (extractorOf p sel) s r :=
  hr ▸ ⟨.idle, Config.freeErrInfo s.fresh, (exec_extractorOf p sel s).trans (decodeStatus_completes hb hp _)⟩

/-- Settles O50: the decoders' records are made of the values the extractors answer. -/
theorem decodersAnswerTheExtractorsTogether : Obligations.DecodersAnswerTheExtractorsTogether := by
  refine fun s p hb => ⟨fun hp => ⟨ampDecode s.cfg p, ⟨.idle, _, decodeStatus_completes hb hp _⟩, ?_⟩,
    fun hp => ⟨seedDecode s.cfg p, ⟨.idle, _, decodeStatus_completes hb hp _⟩, ?_⟩⟩
  · exact ⟨extractorOf_completes .ampStable hb hp rfl, extractorOf_completes .ampSysstat hb hp rfl,
      extractorOf_completes .ampDrvunlock hb hp rfl, extractorOf_completes .ampDrvcur hb hp rfl,
      extractorOf_completes .ampPdval hb hp rfl, extractorOf_completes .ampPdstat hb hp rfl,
      extractorOf_completes .ampTemp hb hp rfl⟩
  · exact ⟨extractorOf_completes .seedTset hb hp rfl, extractorOf_completes .seedTact hb hp rfl,
      extractorOf_completes .seedTdiode hb hp rfl, extractorOf_completes .seedIset hb hp rfl,
      extractorOf_completes .seedIact hb hp rfl, extractorOf_completes .seedPiezo hb hp rfl,
      extractorOf_completes .seedWavelen hb hp rfl, extractorOf_completes .seedPower hb hp rfl,
      extractorOf_completes .seedEmission hb hp rfl, extractorOf_completes .seedRunh hb hp rfl,
      extractorOf_completes .seedRunm hb hp rfl, extractorOf_completes .seedGrating hb hp rfl⟩

/-! The flags of R204, R206 and R209. -/

theorem bitAt_eq_bit (v k : Nat) : bitAt v k = bit v k := Nat.testBit_eq_decide_div_mod_eq

theorem nonzero_eq_decide (v : Nat) : nonzero v = decide (v ≠ 0) := Bool.eq_iff_iff.mpr (by simp [nonzero])

theorem systemStatusOf_ampNumbers (v : Nat) :
    systemStatusOf ampNumbers v =
      { pdProtection := [bit v 0, bit v 1, bit v 2, bit v 3],
        temperatureProtection := [bit v 4, bit v 5, bit v 6, bit v 7, bit v 8], fault := decide (v ≠ 0) } := by
  simp [systemStatusOf, ampNumbers, bitsAt, bitAt_eq_bit, nonzero_eq_decide]

theorem nonzero_toNat (b : Byte) : nonzero b.toNat = (b != 0) :=
  Bool.eq_iff_iff.mpr (by simp [nonzero, BitVec.toNat_eq])

theorem driverUnlockOf_ampNumbers (d : Byte) :
    driverUnlockOf ampNumbers d.toNat =
      { enableControl := [d.getLsbD 0, d.getLsbD 1, d.getLsbD 2],
        enableFlag := [d.getLsbD 3, d.getLsbD 4, d.getLsbD 5], interlock := d.getLsbD 6 } := rfl

/-- The fault flag of R210 as one test of the three event bits, by trying every byte. -/
theorem eventBits_ne_zero :
    ∀ b : Byte, (b.getLsbD 4 || b.getLsbD 5 || b.getLsbD 6) = ((b &&& 0x70#8) != 0) := by decide

theorem pdStatusOf_ampNumbers (b : Byte) :
    pdStatusOf ampNumbers.pdBits b.toNat =
      { samplingEnable := b.getLsbD 0, hardwareProtection := b.getLsbD 1, upperLimitEnabled := b.getLsbD 2,
        lowerLimitEnabled := b.getLsbD 3, hardwareProtectionEvent := b.getLsbD 4, upperLimitEvent := b.getLsbD 5,
        lowerLimitEvent := b.getLsbD 6, fault := (b &&& 0x70#8) != 0 } :=
  congrArg (PDStatus.mk _ _ _ _ _ _ _) (eventBits_ne_zero b)

/-! The fields under the layout of R201. -/

theorem ampLayout_eq_ampNumbers {cfg : Cfg} (h : cfg.amp = ampLayoutDefault) : cfg.ampLayout = ampNumbers :=
  congrArg Subtype.val h

/-- Settles O46: the field is the word at offset 3, and each flag is a bit of it. -/
theorem ampSystemStatusBitsAndFault : Obligations.AmpSystemStatusBitsAndFault := by
  rintro s p v hb hl hp rfl
  refine extractorOf_completes .ampSysstat hb hp (congrArg Result.systemStatus ?_)
  rw [ampSysstatOf, fieldContainer, ampLayout_eq_ampNumbers hl, fieldValue_word16 _ (by decide) hp rfl]
  exact systemStatusOf_ampNumbers _

/-- Settles O47: both fields are single bytes, and each flag of the second is a bit of it. -/
theorem ampStableAndDriverUnlockBits : Obligations.AmpStableAndDriverUnlockBits := by
  rintro s p d hb hl hp rfl
  refine ⟨extractorOf_completes .ampStable hb hp (congrArg Result.flag ?_),
    extractorOf_completes .ampDrvunlock hb hp (congrArg Result.driverUnlock ?_)⟩
  · rw [ampStableOf, fieldContainer, ampLayout_eq_ampNumbers hl, fieldValue_byte _ (by decide) hp rfl]
    exact nonzero_toNat _
  · rw [ampDrvunlockOf, fieldContainer, ampLayout_eq_ampNumbers hl, fieldValue_byte _ (by decide) hp rfl]
    exact driverUnlockOf_ampNumbers _

/-- Settles O48: the elements of each field are the words from its offset on. -/
theorem ampCurrentsValuesAndTemperatures : Obligations.AmpCurrentsValuesAndTemperatures := by
  intro s p hb hl hp w
  refine ⟨extractorOf_completes .ampDrvcur hb hp (congrArg Result.scaledList ?_),
    extractorOf_completes .ampPdval hb hp (congrArg Result.numbers ?_),
    extractorOf_completes .ampTemp hb hp (congrArg Result.scaledList ?_)⟩
  · rw [ampDrvcurOf, fieldContainer, ampLayout_eq_ampNumbers hl, fieldValues_word16 _ (by decide) hp rfl]
    rfl
  · rw [ampPdvalOf, fieldContainer, ampLayout_eq_ampNumbers hl, fieldValues_word16 _ (by decide) hp rfl]
    rfl
  · rw [ampTempOf, fieldContainer, ampLayout_eq_ampNumbers hl, fieldValues_word16 _ (by decide) hp rfl]
    rfl

/-- Settles O49: the elements of the field are the bytes from offset 36 on, and the flags of each are its bits. -/
theorem ampPhotodiodeStatusBits : Obligations.AmpPhotodiodeStatusBits := by
  intro s p hb hl hp
  refine extractorOf_completes .ampPdstat hb hp (congrArg Result.pdStatus ?_)
  rw [ampPdstatOf, fieldContainer, ampLayout_eq_ampNumbers hl, fieldValues_byte _ (by decide) hp rfl, List.map_map]
  exact List.map_congr_left (l := [0, 1, 2, 3]) fun i _ => pdStatusOf_ampNumbers (byteAt p (36 + i))

end Sys2Proof.Machine
end

section
/-! SUPPORT. The values of the seed status fields: the pinned rows of R231, the open fields, and both on the payload
of the source's one seed frame (45_status_seed.md). -/

namespace Sys2Proof.Machine

open Sys2Proof.Claims

/-! A field with one element. -/

theorem memRead_word24 (e : Endian) {p : List Byte} {o : Nat} (h : o + 3 ≤ p.length) :
    memRead e p o 3 = word24 e (byteAt p o) (byteAt p (o + 1)) (byteAt p (o + 2)) := by
  rw [memRead_eq_assemble e h]
  cases e with
  | big => simp [List.range_succ, assemble, assembleBig, word24]; omega
  | little => simp [List.range_succ, assemble, assembleLittle, word24]; omega

theorem fieldValue_eq_memRead (e : Endian) {f : FieldSpec} (hc : f.count = 1) (p : List Byte) :
    fieldValue e f (fieldSlice f p) = memRead e p f.offset f.width :=
  memRead_fieldSlice e f p (i := 0) (by omega)

theorem scaledOf_eq_memRead (cfg : Cfg) {f : FieldSpec} (hc : f.count = 1) (p : List Byte) :
    scaledOf cfg f (fieldSlice f p) = ⟨memRead cfg.endian p f.offset f.width, f.scale⟩ :=
  congrArg (Scaled.mk · f.scale) (fieldValue_eq_memRead cfg.endian hc p)

section

variable {f : FieldSpec} {o w k : Nat} (hf : f = ⟨o, w, 1, k⟩)
include hf

theorem fieldValue_row (e : Endian) (p : List Byte) : fieldValue e f (fieldSlice f p) = memRead e p o w := by
  subst hf
  exact fieldValue_eq_memRead e rfl p

theorem scaledOf_row (cfg : Cfg) (p : List Byte) :
    scaledOf cfg f (fieldSlice f p) = ⟨memRead cfg.endian p o w, k⟩ := by
  subst hf
  exact scaledOf_eq_memRead cfg rfl p

end

/-! The pinned rows. -/

/-- The nine values of R233 to R237, R239, R240, R242 and R243, each by the `MemRead` its rule writes. -/
structure ReadsPinnedRows (e : Endian) (p : List Byte) (d : SeedStatus) : Prop where
  temperatureSet : d.temperatureSet = ⟨memRead e p 0 2, 3⟩
  temperatureAct : d.temperatureAct = ⟨memRead e p 18 2, 3⟩
  temperatureDiode : d.temperatureDiode = ⟨memRead e p 15 2, 3⟩
  currentSet : d.currentSet = memRead e p 4 2
  currentAct : d.currentAct = memRead e p 23 2
  wavelength : d.wavelength = ⟨memRead e p 31 3, 4⟩
  power : d.power = memRead e p 37 1
  runHours : d.runHours = memRead e p 27 2
  runMinutes : d.runMinutes = memRead e p 29 1

theorem seedDecode_readsPinnedRows {cfg : Cfg} {pz : FieldSpec} {em : EmissionSpec} {gr : List FieldSpec}
    (hl : cfg.seedLayout = seedLayoutWith pz em gr) (p : List Byte) :
    ReadsPinnedRows cfg.endian p (seedDecode cfg p) where
  temperatureSet := scaledOf_row (congrArg SeedLayout.temperatureSet hl) cfg p
  temperatureAct := scaledOf_row (congrArg SeedLayout.temperatureAct hl) cfg p
  temperatureDiode := scaledOf_row (congrArg SeedLayout.temperatureDiode hl) cfg p
  currentSet := fieldValue_row (congrArg SeedLayout.currentSet hl) cfg.endian p
  currentAct := fieldValue_row (congrArg SeedLayout.currentAct hl) cfg.endian p
  wavelength := scaledOf_row (congrArg SeedLayout.wavelength hl) cfg p
  power := fieldValue_row (congrArg SeedLayout.power hl) cfg.endian p
  runHours := fieldValue_row (congrArg SeedLayout.runHours hl) cfg.endian p
  runMinutes := fieldValue_row (congrArg SeedLayout.runMinutes hl) cfg.endian p

/-- Settles O52: each pinned row is a `MemRead` of one, two or three bytes inside the payload. -/
theorem seedPinnedFields : Obligations.SeedPinnedFields := by
  intro s p pz em gr hb hl hp w
  have h := seedDecode_readsPinnedRows hl p
  have hw : ∀ o ≤ 38, w o = memRead s.cfg.endian p o 2 := fun o ho => (memRead_word16 _ (by omega)).symm
  rw [hw 0 (by decide), hw 18 (by decide), hw 15 (by decide), hw 4 (by decide), hw 23 (by decide), hw 27 (by decide),
    ← memRead_word24 _ (by omega), ← memRead_byte s.cfg.endian (o := 37) (by omega),
    ← memRead_byte s.cfg.endian (o := 29) (by omega)]
  exact ⟨extractorOf_completes .seedTset hb hp (congrArg Result.scaled h.temperatureSet),
    extractorOf_completes .seedTact hb hp (congrArg Result.scaled h.temperatureAct),
    extractorOf_completes .seedTdiode hb hp (congrArg Result.scaled h.temperatureDiode),
    extractorOf_completes .seedIset hb hp (congrArg Result.number h.currentSet),
    extractorOf_completes .seedIact hb hp (congrArg Result.number h.currentAct),
    extractorOf_completes .seedWavelen hb hp (congrArg Result.scaled h.wavelength),
    extractorOf_completes .seedPower hb hp (congrArg Result.number h.power),
    extractorOf_completes .seedRunh hb hp (congrArg Result.number h.runHours),
    extractorOf_completes .seedRunm hb hp (congrArg Result.number h.runMinutes)⟩

/-! The open fields. -/

/-- What a layout PFP is built with says of its open fields (R238, R241, R244). -/
theorem seedOpenFields_admissible {l : SeedLayout} (h : SeedLayout.fits l = true) :
    piezoAdmissible l.piezoVoltage = true ∧ emissionAdmissible l.emission = true ∧
      ∀ g ∈ l.grating, FieldSpec.fitsOne seedPayLen g = true := by
  simp only [SeedLayout.fits, Bool.and_eq_true] at h
  obtain ⟨⟨⟨-, hgrating⟩, hpiezo⟩, hemission⟩ := h
  exact ⟨hpiezo, hemission, List.all_eq_true.mp hgrating⟩

theorem seedPiezoOf_eq_memRead (cfg : Cfg) (p : List Byte) :
    seedPiezoOf cfg (fieldSlice cfg.seedLayout.piezoVoltage p) =
      ⟨memRead cfg.endian p cfg.seedLayout.piezoVoltage.offset cfg.seedLayout.piezoVoltage.width,
        cfg.seedLayout.piezoVoltage.scale⟩ := by
  obtain ⟨hpiezo, -, -⟩ := seedOpenFields_admissible cfg.seed.property
  exact scaledOf_eq_memRead cfg (FieldSpec.fitsOne_iff.mp (piezoAdmissible_fits hpiezo)).2 p

theorem byteAt_emissionSlice (em : EmissionSpec) (p : List Byte) :
    byteAt (emissionSlice em p) 0 = byteAt p em.offset := by
  simp [byteAt, emissionSlice, List.getD_eq_getElem?_getD]

theorem seedEmissionOf_emissionSlice (cfg : Cfg) (p : List Byte) :
    seedEmissionOf cfg (emissionSlice cfg.seedLayout.emission p) =
      ((byteAt p cfg.seedLayout.emission.offset &&& cfg.seedLayout.emission.mask) != 0) := by
  rw [seedEmissionOf, byteAt_emissionSlice]

/-- The entries of the grating list, read one after the other off their containers, are the ones read in the payload:
each container has the size its entry drops. -/
theorem gratingOf_gratingSlice (e : Endian) {p : List Byte} {n : Nat} (hp : p.length = n) {gs : List FieldSpec}
    (h : ∀ g ∈ gs, FieldSpec.fitsOne n g = true) :
    gratingOf e gs (gratingSlice gs p) = gs.map fun g => ⟨memRead e p g.offset g.width, g.scale⟩ := by
  induction gs with
  | nil => rfl
  | cons g gs ih =>
    obtain ⟨hg, hgs⟩ := List.forall_mem_cons.mp h
    obtain ⟨hfit, hc⟩ := FieldSpec.fitsOne_iff.mp hg
    have hlen : (fieldSlice g p).length = FieldSpec.size g := fieldSlice_length hfit hp
    have hhead : memRead e (fieldSlice g p ++ gratingSlice gs p) 0 g.width = memRead e p g.offset g.width := by
      have hwidth : g.width ≤ (fieldSlice g p).length := by simp [hlen, FieldSpec.size, hc]
      rw [← fieldValue_eq_memRead e hc p, fieldValue, memRead, memRead, List.drop_zero, List.drop_zero,
        List.take_append_of_le_length hwidth]
    rw [gratingSlice, List.flatMap_cons, gratingOf, List.map_cons, List.drop_left' hlen, ← gratingSlice, hhead,
      ih hgs]

/-- Settles O53: whatever open parameters the machine is built with, they keep every `MemRead` inside the payload. -/
theorem seedOpenFields : Obligations.SeedOpenFields := by
  refine ⟨rfl, fun s p hb hp => ?_⟩
  intro l at_
  obtain ⟨hpiezo, -, hgrating⟩ := seedOpenFields_admissible s.cfg.seed.property
  have hat : ∀ f : FieldSpec, FieldSpec.fitsOne 40 f = true → memRead s.cfg.endian p f.offset f.width = at_ f := by
    intro f hf
    obtain ⟨hfit, hc⟩ := FieldSpec.fitsOne_iff.mp hf
    have hle : f.offset + f.width ≤ 40 := FieldSpec.element_le hfit (i := 0) (by omega)
    exact memRead_eq_assemble _ (hle.trans hp.ge)
  refine ⟨extractorOf_completes .seedPiezo hb hp (congrArg Result.scaled ?_),
    extractorOf_completes .seedEmission hb hp (congrArg Result.flag (seedEmissionOf_emissionSlice _ _)),
    extractorOf_completes .seedGrating hb hp (congrArg Result.scaledList ?_)⟩
  · rw [← hat _ (piezoAdmissible_fits hpiezo)]
    exact seedPiezoOf_eq_memRead s.cfg p
  · exact (gratingOf_gratingSlice _ hp hgrating).trans
      (List.map_congr_left fun g hg => congrArg (Scaled.mk · g.scale) (hat g (hgrating g hg)))

/-! The payload of the source's frame. -/

theorem assemble_eq_zero (e : Endian) {bs : List Byte} (h : ∀ b ∈ bs, b = 0) : assemble e bs = 0 := by
  induction bs with
  | nil => cases e <;> rfl
  | cons b bs ih =>
    obtain ⟨rfl, hbs⟩ := List.forall_mem_cons.mp h
    have hrest := ih hbs
    cases e <;> simpa [assemble, assembleBig, assembleLittle] using hrest

theorem memRead_seedExample_of_piezoAdmissible (e : Endian) {f : FieldSpec} (h : piezoAdmissible f = true) :
    memRead e seedExample f.offset f.width = 0 := by
  obtain ⟨-, hzero⟩ := Bool.and_eq_true_iff.mp h
  exact assemble_eq_zero e fun b hb => eq_of_beq (List.all_eq_true.mp hzero b hb)

theorem emission_seedExample_of_emissionAdmissible {em : EmissionSpec} (h : emissionAdmissible em = true) :
    ((byteAt seedExample em.offset &&& em.mask) != 0) = false := by
  obtain ⟨-, hzero⟩ := Bool.and_eq_true_iff.mp h
  exact congrArg not hzero

/-- Settles O54: the pinned rows are read off the payload, and the open fields are admitted only where they read 0 and
false on it. -/
theorem seedExampleDecodes : Obligations.SeedExampleDecodes := by
  intro s pz em gr hb hl he
  have h := he ▸ seedDecode_readsPinnedRows hl seedExample
  obtain ⟨hpiezo, hemission, -⟩ := seedOpenFields_admissible s.cfg.seed.property
  have hpiezoRaw : (seedDecode s.cfg seedExample).piezoVoltage.raw = 0 :=
    (congrArg Scaled.raw (seedPiezoOf_eq_memRead s.cfg seedExample)).trans
      (memRead_seedExample_of_piezoAdmissible _ hpiezo)
  have hemissionOff : (seedDecode s.cfg seedExample).emission = false :=
    (seedEmissionOf_emissionSlice s.cfg seedExample).trans (emission_seedExample_of_emissionAdmissible hemission)
  exact ⟨seedDecode s.cfg seedExample, ⟨.idle, _, decodeStatus_completes hb rfl _⟩, h.temperatureAct,
    h.temperatureDiode, h.temperatureSet, h.currentSet, h.currentAct, hpiezoRaw, h.wavelength, h.power, hemissionOff,
    h.runHours, h.runMinutes⟩

end Sys2Proof.Machine
end


section
/-! SUPPORT. Errors (60_exceptions.md): the one error of the status decoders, why no state that meets the invariant stops in
a fault, which moves end an operation in an error and what that leaves alone. -/

namespace Sys2Proof.Machine

open Sys2Proof.Claims

/-! The status decoders. -/

/-- Every decoder of the list is the shared one, with the length the list gives. -/
theorem exec_statusDecoder {p : List Byte} {i : Instr} {want : Nat} (h : (i, want) ∈ statusDecoders p) (s : State) :
    ∃ r, exec i s = decodeStatus want p r s := by
  fin_cases h
  all_goals exact ⟨_, rfl⟩

theorem decodeStatus_wrongLength {want : Nat} {p : List Byte} {s : State} (hb : s.busy = false) (hp : p.length ≠ want)
    (r : Result) :
    decodeStatus want p r s =
      .next (ends { s with wstate := .idle } .wrongLength (lengthErrInfo p.length (Config.freeErrInfo s.fresh)) .nothing)
    := by
  rw [decodeStatus, startPure, if_neg (by simp [hb]), if_pos hp]
  exact congrArg Host.Outcome.next (State.raise_eq_ends _ rfl _)

/-- Settles O51: all of them are the shared decoder, whose only test is the length. -/
theorem statusDecodersRaiseWrongLength : Obligations.StatusDecodersRaiseWrongLength := by
  intro s p i want hb hi
  obtain ⟨r, hexec⟩ := exec_statusDecoder hi s
  exact ⟨fun hp => ⟨.idle, _, rfl, hexec.trans (decodeStatus_wrongLength hb hp r)⟩,
    fun hp => ⟨r, .idle, _, hexec.trans (decodeStatus_completes hb hp r)⟩⟩

/-! Faults. -/

/-- The outcome is a next state or a refusal. -/
def NoFault (o : StepResult) : Prop := ∀ f, o ≠ .fault f

theorem noFault_next (t : State) : NoFault (.next t) := nofun

theorem noFault_refused (r : Refusal) : NoFault (.refused r) := nofun

theorem NoFault.ite {c : Prop} [Decidable c] {a b : StepResult} (ha : c → NoFault a) (hb : ¬c → NoFault b) :
    NoFault (if c then a else b) := by
  split
  · exact ha ‹_›
  · exact hb ‹_›

theorem startPure_noFault {s : State} {k : State → StepResult} (hk : ∀ u, NoFault (k u)) : NoFault (startPure s k) :=
  .ite (fun _ => noFault_refused _) fun _ => hk _

theorem startEngine_noFault {s : State} {k : State → StepResult} (hk : ∀ u, NoFault (k u)) :
    NoFault (startEngine s k) :=
  .ite (fun _ => noFault_refused _) fun _ => .ite (fun _ => hk _) fun _ => noFault_refused _

theorem decodeStatus_noFault (want : Nat) (p : List Byte) (r : Result) (s : State) : NoFault (decodeStatus want p r s) :=
  startPure_noFault fun _ => .ite (fun _ => noFault_next _) fun _ => noFault_next _

theorem evalField_noFault (sel : FieldSel) (c : List Byte) (r : Result) (s : State) : NoFault (evalField sel c r s) :=
  .ite (fun _ => noFault_next _) fun _ => noFault_refused _

theorem receiveFrame_noFault (raw : List Byte) (s : State) : NoFault (receiveFrame raw s) := by
  unfold receiveFrame
  split
  · exact noFault_refused _
  · exact noFault_next _
  · exact noFault_next _

theorem receiveFrameWord_noFault (raw : List Byte) (s : State) : NoFault (receiveFrameWord raw s) :=
  .ite (fun _ => noFault_refused _) fun _ => receiveFrame_noFault raw s

theorem execRxByte_noFault (b : Byte) (s : State) : NoFault (execRxByte b s) := by
  refine .ite (fun _ => ?_) fun _ => noFault_refused _
  split
  · exact .ite (fun _ => noFault_next _) fun _ => noFault_next _
  · exact .ite (fun _ => .ite (fun _ => noFault_next _) fun _ => noFault_next _) fun _ => noFault_next _
  · exact noFault_next _
  · exact .ite (fun _ => receiveFrame_noFault _ s) fun _ => noFault_next _

/-- A running operation takes a dispatched frame. -/
theorem frameDone_noFault (m : Message) {s : State} (hrun : s.run ≠ .none) : NoFault (frameDone m s) := by
  obtain ⟨t, ht, -⟩ := frameDone_afterFrame hrun m
  exact ht ▸ noFault_next t

theorem dispatchTo_noFault (sel : SlotSel) (want : Nat) (m : Message) (s : State) : NoFault (dispatchTo sel want m s) := by
  refine .ite (fun _ => noFault_refused _) fun hrun => ?_
  split
  · exact noFault_next _
  · exact .ite (fun _ => noFault_next _) fun _ => frameDone_noFault m (by simpa using hrun)

theorem execFrameCmd_noFault (addr cmd : Byte) (p : List Byte) (tr : Trailer) (s : State) :
    NoFault (execFrameCmd addr cmd p tr s) := by
  refine .ite (fun _ => ?_) fun _ => noFault_refused _
  split
  · exact noFault_next _
  · exact noFault_next _
  · exact noFault_next _

theorem execEncodeOp_noFault (cls : MsgClass) (cmd addr : Byte) (p : Payload) (s : State) :
    NoFault (execEncodeOp cls cmd addr p s) := by
  refine startPure_noFault fun u => ?_
  split
  · exact noFault_refused _
  · exact noFault_next _

theorem execDecodeOp_noFault (cls : MsgClass) (expected : Byte) (raw : List Byte) (s : State) :
    NoFault (execDecodeOp cls expected raw s) := by
  refine startPure_noFault fun u => ?_
  split
  · exact noFault_refused _
  · exact noFault_next _
  · exact noFault_next _

theorem execSend_noFault (cmd addr : Byte) (p : Payload) (s : State) : NoFault (execSend cmd addr p s) := by
  refine startEngine_noFault fun u => ?_
  split
  · exact noFault_refused _
  · exact noFault_next _

/-- No operation stops in a fault, from any state: DISPATCH refuses where nothing runs. -/
theorem exec_noFault (i : Instr) (s : State) : NoFault (exec i s) := by
  cases i with
  | frameSeedStatus | frameAmpStatus | frameRet => exact receiveFrameWord_noFault _ s
  | frameCmd addr cmd p tr => exact execFrameCmd_noFault addr cmd p tr s
  | rxByte b => exact execRxByte_noFault b s
  | rxOverrun =>
    exact .ite (fun _ => .ite (fun _ => noFault_next _) fun _ => noFault_next _) fun _ => noFault_refused _
  | rxFatal | rxTimeout => exact .ite (fun _ => noFault_next _) fun _ => noFault_refused _
  | chk | xorchk => exact startPure_noFault fun _ => noFault_next _
  | encodeOp cls cmd addr p => exact execEncodeOp_noFault cls cmd addr p s
  | decodeOp cls expected raw => exact execDecodeOp_noFault cls expected raw s
  | recv | drain | await => exact startEngine_noFault fun _ => noFault_next _
  | send cmd addr p => exact execSend_noFault cmd addr p s
  | ampdec | seeddec | ampStable | ampSysstat | ampDrvunlock | ampDrvcur | ampPdval | ampPdstat | ampTemp | seedTset
  | seedTact | seedTdiode | seedIset | seedIact | seedPiezo | seedWavelen | seedPower | seedEmission | seedRunh | seedRunm
  | seedGrating => exact decodeStatus_noFault _ _ _ s
  | fieldAmpStable | fieldAmpSysstat | fieldAmpDrvunlock | fieldAmpDrvcur | fieldAmpPdval | fieldAmpPdstat | fieldAmpTemp
  | fieldSeedTset | fieldSeedTact | fieldSeedTdiode | fieldSeedIset | fieldSeedIact | fieldSeedPiezo | fieldSeedWavelen
  | fieldSeedPower | fieldSeedEmission | fieldSeedRunh | fieldSeedRunm | fieldSeedGrating =>
    exact evalField_noFault _ _ _ s
  | dispatchSeed m => exact dispatchTo_noFault .seed _ m s
  | dispatchAmp m => exact dispatchTo_noFault .amp _ m s
  | dispatchNone m => exact .ite (fun _ => noFault_refused _) fun hrun => frameDone_noFault m hrun

theorem readSlot_noFault (sel : SlotSel) (k : List Byte → Result) (s : State) : NoFault (readSlot sel k s) :=
  .ite (fun _ => noFault_next _) fun _ => noFault_refused _

theorem hostPort_noFault (a : PortAct) (s : State) : NoFault (hostPort a s) := by
  cases a with
  | cfgWrite w =>
    refine .ite (fun _ => noFault_refused _) fun _ => ?_
    split
    · exact noFault_next _
    · exact noFault_refused _
  | writeLenWarn | reset => exact noFault_next _
  | read r =>
    cases r with
    | slotRaw sel i => exact .ite (fun _ => readSlot_noFault sel _ s) fun _ => noFault_refused _
    | slotRawAll sel => exact readSlot_noFault sel _ s
    | ampView => exact readSlot_noFault .amp (fun b => .ampStatus (ampDecode s.cfg b)) s
    | seedView => exact readSlot_noFault .seed (fun b => .seedStatus (seedDecode s.cfg b)) s
    | lastMsg => exact .ite (fun _ => noFault_next _) fun _ => noFault_refused _
    | _ => exact noFault_next _

/-- Only DRAIN and SEND wait for an answer to `AVAIL` (R184, R188). -/
theorem availAnswer_noFault (n : Nat) {s : State} (hrun : s.run = .drain ∨ ∃ f, s.run = .send f) :
    NoFault (availAnswer n s) := by
  refine .ite (fun _ => noFault_next _) fun _ => ?_
  obtain hrun | ⟨f, hrun⟩ := hrun
  · rw [hrun]
    exact noFault_next _
  · rw [hrun]
    exact noFault_next _

/-- A move faults only where the sequencing fields contradict each other, which the invariant rules out. -/
theorem Takes.noFault {s : State} {o : StepResult} (hx : Takes s o) (h : Inv s) : NoFault o := by
  cases hx with
  | waits => exact noFault_next s
  | op | field | replay | event | frame | dispatch | tx => exact exec_noFault _ _
  | port a rest => exact hostPort_noFault a _
  | avail n rest hc => exact availAnswer_noFault n (h.availRun hc)
  | reject r => exact noFault_refused r
  | stop hc hrun =>
    obtain ⟨f, hf⟩ := h.txRun hc
    exact absurd hf (hrun f)

/-- Settles O32: a step is one move, after the turn is taken. -/
theorem invariantStatesNeverFault : Obligations.InvariantStatesNeverFault := by
  intro s f h
  obtain ⟨turns, htakes⟩ := step_takes s
  exact htakes.noFault { h with } f

/-! Errors. -/

/-- From `s` to `t` an operation ends in error `e` with result `r` and changes nothing else (R273) but the queues, the
engine's bytes and the free parts of `ERRINFO`. -/
structure Raised (s t : State) (e : ErrCode) (r : Result) : Prop where
  result : r = .nothing
  err : t.err = e
  busy : t.busy = false
  held : ∃ txAns, t.held = { s.held with txAns := txAns }
  lenWarn : t.lenWarn = s.lenWarn
  cfg : t.cfg = s.cfg
  wstate : s.busy = true → t.wstate = s.wstate

/-- `raise` signals its own error, and no result. -/
theorem raise_raised {s : State} {e e' : ErrCode} {g : ErrInfo → ErrInfo} {r : Result}
    (hres : (s.raise e' g).res = s.res ++ [.opDone e r]) : e' = e ∧ Raised s (s.raise e' g) e r := by
  simp only [State.raise_res, List.append_cancel_left_eq, List.cons.injEq, ResEvent.opDone.injEq, and_true] at hres
  obtain ⟨rfl, rfl⟩ := hres
  exact ⟨rfl,
    { result := rfl
      err := State.raise_err ..
      busy := State.raise_busy ..
      held := ⟨s.txAns, State.raise_held ..⟩
      lenWarn := State.raise_lenWarn ..
      cfg := State.raise_cfg ..
      wstate := fun _ => State.raise_wstate .. }⟩

/-- The byte the engine takes in `s` is its frame's last, and DECODE answers `e` (R155). -/
def LastByteRaises (s : State) (e : ErrCode) : Prop :=
  5 ≤ s.buf.length ∧ s.buf.length = 8 + lenOf s.buf ∧
    ∃ b, codecDecode s.cfg (s.buf ++ [b]) s.cfg.addr .ret = .error e

/-- The next move can end an operation with code `e`: at once where it starts; where the engine asks for no byte, but
not with `BadHeader`; in a transport error; and with a frame's last byte (R267). -/
def CanEnd (s : State) (e : ErrCode) : Prop :=
  s.busy = false ∨ (s.ctl ≠ .rx ∧ e ≠ .badHeader) ∨ isTransport e = true ∨ LastByteRaises s e

theorem canEnd_outside_rx {s : State} {e : ErrCode} (hc : s.ctl ≠ .rx) (he : e ≠ .badHeader) : CanEnd s e :=
  .inr (.inl ⟨hc, he⟩)

theorem canEnd_transport {s : State} {e : ErrCode} (h : isTransport e = true) : CanEnd s e := .inr (.inr (.inl h))

theorem LastByteRaises.canEnd {s : State} {e : ErrCode} (h : LastByteRaises s e) : CanEnd s e := .inr (.inr (.inr h))

/-- All that is said of a move from `s` to `t` that ends an operation with code `e` and result `r`. -/
def OpEnd (s t : State) (e : ErrCode) (r : Result) : Prop := CanEnd s e ∧ (e ≠ .none → Raised s t e r)

section

variable {s t : State} {e : ErrCode} {r : Result}

theorem OpStep.opEnd {i : Instr} (hb : s.busy = false) (h : OpStep i s t) (hres : t.res = s.res ++ [.opDone e r]) :
    OpEnd s t e r := by
  refine ⟨.inl hb, fun he => ?_⟩
  cases h with
  | done r' lw =>
    obtain ⟨rfl, -⟩ : ErrCode.none = e ∧ r' = r := by simpa using hres
    exact absurd rfl he
  | error e' g =>
    obtain ⟨-, h⟩ := raise_raised (s := { s with wstate := .idle }) hres
    exact { h with wstate := fun hbusy => by simp [hb] at hbusy }
  | recv | drain | await | send => simp at hres

/-- On the receive path DECODE's error ends the operation, and a Message does not. -/
theorem receiveFrame_raised {raw : List Byte} (h : receiveFrame raw s = .next t)
    (hres : t.res = s.res ++ [.opDone e r]) :
    codecDecode s.cfg raw s.cfg.addr .ret = .error e ∧ Raised s t e r := by
  obtain ⟨e', he', rfl⟩ | ⟨m, -, rfl⟩ := receiveFrame_next h
  · obtain ⟨rfl, h⟩ := raise_raised (s := { s with buf := [] }) hres
    exact ⟨he', { h with }⟩
  · simp at hres

/-- Of the received bytes only a frame's last ends the operation. -/
theorem execRxByte_opEnd {b : Byte} (h : execRxByte b s = .next t) (hres : t.res = s.res ++ [.opDone e r]) :
    OpEnd s t e r := by
  obtain ⟨-, ⟨-, rfl⟩ | ⟨h0, -, rfl⟩ | ⟨h0, z, -, rfl⟩ | ⟨-, rfl⟩ | ⟨-, -, rfl⟩ | ⟨hlen, hlast, h⟩⟩ := execRxByte_next h
  · split at hres <;> simp at hres
  · simp at hres
  · split at hres <;> simp at hres
  · simp at hres
  · simp at hres
  · obtain ⟨hdecode, h⟩ := receiveFrame_raised h hres
    have hraises : LastByteRaises s e := ⟨hlen, by rw [lenOf]; omega, b, hdecode⟩
    exact ⟨hraises.canEnd, fun _ => h⟩

theorem raise_opEnd {e' : ErrCode} {g : ErrInfo → ErrInfo} (hcan : CanEnd s e')
    (hres : (s.raise e' g).res = s.res ++ [.opDone e r]) : OpEnd s (s.raise e' g) e r := by
  obtain ⟨rfl, h⟩ := raise_raised hres
  exact ⟨hcan, fun _ => h⟩

theorem rxInstr_opEnd {w : RxWord} (h : exec (rxInstr w) s = .next t) (hres : t.res = s.res ++ [.opDone e r]) :
    OpEnd s t e r := by
  obtain ⟨b, hw⟩ | ⟨b, hw⟩ | ⟨b, hw⟩ | ⟨b, hw⟩ := rxInstr_cases w
  all_goals rw [hw] at h
  · exact execRxByte_opEnd h hres
  · obtain ⟨-, rfl | ⟨-, -, rfl⟩⟩ := execRxOverrun_next (x := b) h
    · simp at hres
    · exact raise_opEnd (canEnd_transport rfl) hres
  · obtain ⟨-, rfl⟩ := execRxFatal_next (x := b) h
    exact raise_opEnd (canEnd_transport rfl) hres
  · obtain ⟨-, rfl⟩ := execRxTimeout_next (x := b) h
    exact raise_opEnd (canEnd_transport rfl) hres

/-- An operation that ends well at a frame boundary. -/
theorem complete_opEnd (hc : s.ctl ≠ .rx) {u : State} {r' : Result} (hres : (u.complete r').res = u.res ++ [.opDone e r]) :
    OpEnd s t e r := by
  obtain ⟨rfl, -⟩ : ErrCode.none = e ∧ r' = r := by simpa using hres
  exact ⟨canEnd_outside_rx hc nofun, fun he => absurd rfl he⟩

/-- A frame that reaches the running operation raises nothing. -/
theorem frameDone_opEnd {m : Message} (hc : s.ctl ≠ .rx) (h : frameDone m s = .next t)
    (hres : t.res = s.res ++ [.opDone e r]) : OpEnd s t e r := by
  obtain ⟨-, rfl⟩ | ⟨-, rfl⟩ | ⟨-, -, rfl⟩ | ⟨-, -, rfl⟩ := frameDone_next h
  · exact complete_opEnd hc hres
  · simp at hres
  · exact complete_opEnd hc hres
  · simp at hres

/-- A status frame that is stored signals that first, so it does not end in an error. -/
theorem dispatchTo_opEnd {sel : SlotSel} {want : Nat} {m : Message} (hc : s.ctl ≠ .rx)
    (h : dispatchTo sel want m s = .next t) (hres : t.res = s.res ++ [.opDone e r]) : OpEnd s t e r := by
  obtain ⟨-, ⟨-, rfl⟩ | ⟨p, -, -, rfl⟩ | ⟨p, -, -, h⟩⟩ := dispatchTo_next h
  · exact raise_opEnd (canEnd_outside_rx hc nofun) hres
  · exact raise_opEnd (canEnd_outside_rx hc nofun) hres
  · obtain ⟨⟨-, -, new, hnew⟩, -⟩ := frameDone_keeps h
    simp [hnew] at hres

theorem dispatchInstr_opEnd {m : Message} (hc : s.ctl ≠ .rx) (h : exec (dispatchInstr s.cfg m) s = .next t)
    (hres : t.res = s.res ++ [.opDone e r]) : OpEnd s t e r := by
  unfold dispatchInstr at h
  split at h
  · exact dispatchTo_opEnd (sel := .amp) hc h hres
  · split at h
    · exact dispatchTo_opEnd (sel := .seed) hc h hres
    · exact frameDone_opEnd hc (execDispatchNone_next h) hres

theorem availAnswer_opEnd {n : Nat} (hc : s.ctl ≠ .rx) (h : availAnswer n s = .next t)
    (hres : t.res = s.res ++ [.opDone e r]) : OpEnd s t e r := by
  obtain ⟨-, rfl⟩ | ⟨-, -, rfl⟩ | ⟨-, -, rfl⟩ := availAnswer_next h
  · simp at hres
  · exact complete_opEnd hc hres
  · simp at hres

/-- SEND's write ends it well, or in a transport error. -/
theorem execFrameCmd_opEnd {addr cmd : Byte} {p : List Byte} {tr : Trailer} (h : execFrameCmd addr cmd p tr s = .next t)
    (hres : t.res = s.res ++ [.opDone e r]) : OpEnd s t e r := by
  obtain ⟨hc, ⟨-, rfl⟩ | ⟨rest, -, rfl⟩ | ⟨rest, -, rfl⟩⟩ := execFrameCmd_next h
  · simp at hres
  · exact complete_opEnd (by simp [hc]) hres
  · obtain ⟨rfl, h⟩ := raise_raised (s := { s with txAns := rest }) hres
    exact ⟨canEnd_transport rfl, fun _ => { h with held := ⟨rest, State.raise_held _ _ _⟩ }⟩

/-- A register access and reset signal no end. -/
theorem hostPort_signals_no_end {a : PortAct} (h : hostPort a s = .next t) : t.res ≠ s.res ++ [.opDone e r] := by
  intro hres
  cases a with
  | cfgWrite w =>
    obtain ⟨-, c, -, rfl⟩ := hostCfgWrite_next h
    simp at hres
  | writeLenWarn b =>
    cases h
    simp at hres
  | read sel =>
    obtain ⟨n, a, rfl⟩ := hostRead_next h
    simp at hres
  | reset =>
    cases h
    simp [applyReset] at hres

/-- The frame SEND holds is a FRAME.CMD word. -/
theorem decode_commandFrame {cfg : Cfg} {f : List Byte} {i : Instr} (h : decode cfg ⟨.frame .command, f⟩ = .ok i) :
    ∃ addr cmd p tr, i = .frameCmd addr cmd p tr := by
  obtain ⟨addr, cmd, p, tr, -, -, hrow⟩ := decodeFrameWord_ok h
  refine ⟨addr, cmd, p, tr, ?_⟩
  simp only [frameInstr] at hrow
  split at hrow
  · cases hrow
    rfl
  · cases hrow

/-- Every move that ends an operation. Taking a turn, a transaction, an event or an answer off its queue touches nothing
that is said of it. -/
theorem Takes.opEnd {o : StepResult} (hx : Takes s o) (hframe : ∀ raw, s.ctl ≠ .frame raw) (ho : o = .next t)
    (hres : t.res = s.res ++ [.opDone e r]) : OpEnd s t e r := by
  cases hx with
  | waits =>
    cases ho
    simp at hres
  | op w rest i _ hi =>
    obtain ⟨hb, hstep⟩ := exec_op_next (decodeOpWord_chan hi) ho
    obtain ⟨hcan, h⟩ := hstep.opEnd hb hres
    exact ⟨hcan, fun he => { h he with }⟩
  | field sel rest i _ _ hi =>
    obtain ⟨-, rfl⟩ := decode_field hi
    obtain ⟨a, rfl⟩ := exec_field_next (fieldInstr_chan _ _) ho
    simp at hres
  | port a rest =>
    have hnot := hostPort_signals_no_end (e := e) (r := r) ho
    exact absurd hres hnot
  | replay b rest =>
    obtain ⟨hcan, h⟩ := execRxByte_opEnd ho hres
    exact ⟨hcan, fun he => { h he with }⟩
  | event w rest =>
    obtain ⟨hcan, h⟩ := rxInstr_opEnd ho hres
    exact ⟨hcan, fun he => { h he with }⟩
  | avail n rest hc =>
    obtain ⟨hcan, h⟩ := availAnswer_opEnd (by simp [hc]) ho hres
    exact ⟨hcan, fun he => { h he with }⟩
  | frame raw _ hc => exact absurd hc (hframe raw)
  | dispatch m hc => exact dispatchInstr_opEnd (by simp [hc]) ho hres
  | tx f i _ _ _ hi =>
    obtain ⟨addr, cmd, p, tr, rfl⟩ := decode_commandFrame hi
    exact execFrameCmd_opEnd ho hres
  | reject => cases ho
  | stop => cases ho

theorem step_opEnd (h : Inv s) (hx : step s = .next t) (hres : t.res = s.res ++ [.opDone e r]) : OpEnd s t e r := by
  obtain ⟨turns, htakes⟩ := step_takes s
  obtain ⟨hcan, hraised⟩ := htakes.opEnd h.noFrameHeld hx hres
  exact ⟨hcan, fun he => { hraised he with }⟩

end

/-- Settles O28: the engine is empty because the next state is idle and meets the invariant. -/
theorem errorEndsTheOperationAndNothingElse : Obligations.ErrorEndsTheOperationAndNothingElse := by
  intro s t e r h hx hres he
  obtain ⟨-, hraised⟩ := step_opEnd h hx hres
  have hend := hraised he
  obtain ⟨txAns, hheld⟩ := hend.held
  obtain ⟨hbuf, hreplay⟩ := (stepKeepsInvariant s t h hx).held_of_idle hend.busy
  exact ⟨hend.result, hend.err, hend.busy, hbuf, hreplay, congrArg Held.lastMsg hheld, congrArg Held.lastMsgValid hheld,
    congrArg Held.slotAmp hheld, congrArg Held.slotSeed hheld, hend.lenWarn, congrArg Held.awaitId hheld, hend.cfg,
    congrArg Held.tx hheld, hend.wstate⟩

/-- A frame assembled under the invariant has its start right, so DECODE finds no `BadHeader` (R261). -/
theorem LastByteRaises.ne_badHeader {s : State} {e : ErrCode} (hlast : LastByteRaises s e) (h : Inv s) :
    e ≠ .badHeader := by
  obtain ⟨hlen, -, b, hdecode⟩ := hlast
  obtain ⟨hzero, haddr⟩ := h.bufStart (by omega)
  have hat : ∀ {i}, i < s.buf.length → byteAt (s.buf ++ [b]) i = byteAt s.buf i := byteAt_append_left [b]
  rintro rfl
  exact codecDecode_ne_badHeader ((hat (by omega)).trans (h.bufHeader (by omega))) ((hat (by omega)).trans hzero)
    ((hat (by omega)).trans haddr) hdecode

/-- Settles O39: by where a running operation can end. -/
theorem frameErrorsComeWithTheLastByte : Obligations.FrameErrorsComeWithTheLastByte := by
  intro s t e r h hb _ hx hres
  obtain ⟨hidle | ⟨hc, he⟩ | htransport | hlast, -⟩ := step_opEnd h hx hres
  · simp [hb] at hidle
  · exact ⟨he, fun hrx => absurd hrx hc⟩
  · exact ⟨fun he => by simp [he, isTransport] at htransport, fun _ hnot => by simp [htransport] at hnot⟩
  · have hne := hlast.ne_badHeader h
    obtain ⟨hlen, hlastByte, -⟩ := hlast
    exact ⟨hne, fun _ _ => ⟨hlen, hlastByte⟩⟩

end Sys2Proof.Machine
end


section
/-! SUPPORT. Reset and the configuration: no operation writes a configuration register, the host writes none while one
runs, and reset keeps what the transport holds (70_reset_and_hazards.md). -/

namespace Sys2Proof.Machine

/-! The configuration registers. -/

section

variable {s t : State}

theorem receiveFrame_keeps_cfg {raw : List Byte} (h : receiveFrame raw s = .next t) : t.cfg = s.cfg := by
  obtain ⟨e, -, rfl⟩ | ⟨m, -, rfl⟩ := receiveFrame_next h
  · exact State.raise_cfg _ e _
  · rfl

theorem receiveFrameWord_keeps_cfg {raw : List Byte} (h : receiveFrameWord raw s = .next t) : t.cfg = s.cfg :=
  receiveFrame_keeps_cfg (receiveFrameWord_next h).2

theorem execRxByte_keeps_cfg {b : Byte} (h : execRxByte b s = .next t) : t.cfg = s.cfg := by
  obtain ⟨-, ⟨-, rfl⟩ | ⟨h0, -, rfl⟩ | ⟨h0, z, -, rfl⟩ | ⟨-, rfl⟩ | ⟨-, -, rfl⟩ | ⟨-, -, h⟩⟩ := execRxByte_next h
  · split <;> rfl
  · rfl
  · split <;> rfl
  · rfl
  · rfl
  · exact receiveFrame_keeps_cfg h

theorem frameDone_keeps_cfg {m : Message} (h : frameDone m s = .next t) : t.cfg = s.cfg := by
  obtain ⟨-, rfl⟩ | ⟨-, rfl⟩ | ⟨-, -, rfl⟩ | ⟨-, -, rfl⟩ := frameDone_next h <;> rfl

theorem dispatchTo_keeps_cfg {sel : SlotSel} {want : Nat} {m : Message} (h : dispatchTo sel want m s = .next t) :
    t.cfg = s.cfg := by
  obtain ⟨-, ⟨-, rfl⟩ | ⟨p, -, -, rfl⟩ | ⟨p, -, -, h⟩⟩ := dispatchTo_next h
  · exact State.raise_cfg s _ _
  · exact State.raise_cfg s _ _
  · exact (frameDone_keeps_cfg h).trans (State.storeSlot_cfg s sel p)

theorem execFrameCmd_keeps_cfg {addr cmd : Byte} {p : List Byte} {tr : Trailer}
    (h : execFrameCmd addr cmd p tr s = .next t) : t.cfg = s.cfg := by
  obtain ⟨-, ⟨-, rfl⟩ | ⟨rest, -, rfl⟩ | ⟨rest, -, rfl⟩⟩ := execFrameCmd_next h
  · rfl
  · rfl
  · exact State.raise_cfg _ _ _

theorem OpStep.keeps_cfg {i : Instr} (h : OpStep i s t) : t.cfg = s.cfg := by
  cases h with
  | error e g => exact State.raise_cfg _ e g
  | done | recv | drain | await | send => rfl

/-- Every operation, by the channel its word stands on. -/
theorem exec_keeps_cfg {i : Instr} (h : exec i s = .next t) : t.cfg = s.cfg := by
  cases i with
  | frameSeedStatus | frameAmpStatus | frameRet => exact receiveFrameWord_keeps_cfg h
  | frameCmd => exact execFrameCmd_keeps_cfg h
  | rxByte => exact execRxByte_keeps_cfg h
  | rxOverrun x =>
    obtain ⟨-, rfl | ⟨-, -, rfl⟩⟩ := execRxOverrun_next (x := x) h
    · rfl
    · exact State.raise_cfg s _ _
  | rxFatal x =>
    obtain ⟨-, rfl⟩ := execRxFatal_next (x := x) h
    exact State.raise_cfg s _ _
  | rxTimeout x =>
    obtain ⟨-, rfl⟩ := execRxTimeout_next (x := x) h
    exact State.raise_cfg s _ _
  | fieldAmpStable | fieldAmpSysstat | fieldAmpDrvunlock | fieldAmpDrvcur | fieldAmpPdval | fieldAmpPdstat | fieldAmpTemp
  | fieldSeedTset | fieldSeedTact | fieldSeedTdiode | fieldSeedIset | fieldSeedIact | fieldSeedPiezo | fieldSeedWavelen
  | fieldSeedPower | fieldSeedEmission | fieldSeedRunh | fieldSeedRunm | fieldSeedGrating =>
    obtain ⟨r, rfl⟩ := exec_field_next rfl h
    rfl
  | dispatchSeed => exact dispatchTo_keeps_cfg (sel := .seed) h
  | dispatchAmp => exact dispatchTo_keeps_cfg (sel := .amp) h
  | dispatchNone => exact frameDone_keeps_cfg (execDispatchNone_next h)
  | _ =>
    obtain ⟨-, hstep⟩ := exec_op_next rfl h
    exact hstep.keeps_cfg

theorem availAnswer_keeps_cfg {n : Nat} (h : availAnswer n s = .next t) : t.cfg = s.cfg := by
  obtain ⟨-, rfl⟩ | ⟨-, -, rfl⟩ | ⟨-, -, rfl⟩ := availAnswer_next h <;> rfl

end

theorem hostPort_cfgWrite_busy {s : State} (hb : s.busy = true) (w : CfgWrite) :
    hostPort (.cfgWrite w) s = .refused .cfgWriteWhileBusy := by
  simp [hostPort, hostCfgWrite, hb]

/-- Settles O35: operation by operation (`exec_keeps_cfg`), and by the first test of a configuration write. -/
theorem configurationIsConstantWhileRunning : Obligations.ConfigurationIsConstantWhileRunning :=
  ⟨fun _ _ _ => exec_keeps_cfg, fun _ _ _ => availAnswer_keeps_cfg, fun w _ hb => hostPort_cfgWrite_busy hb w⟩

/-! Reset. -/

/-- Settles O44: the next state is `applyReset s`, which is `State.reset` but for the build-time layouts, the channels
and the two counters. -/
theorem resetAppliesAtAnyTime : Obligations.ResetAppliesAtAnyTime := by
  intro s
  refine ⟨applyReset s, rfl, ?_⟩
  simp [applyReset, State.reset, resetCfg, cfgAfterReset]

end Sys2Proof.Machine
end
